-- ==== Sys2Proof/Word.lean ====
section
/-! DEFINITION. The word types of the block (R10, R12, R25, R41, R59): widths only; all values are unsigned. -/

namespace Sys2Proof

/-- Eight bits: a byte of the shift register or of a frame (R13). -/
abbrev Byte := BitVec 8

/-- A delta word and a history entry: DW = 32 bits of microseconds (R10, R55; DESIGN CHOICE, log 3: DW is fixed). -/
abbrev Delta := BitVec 32

/-- The shift register SR (R25). -/
abbrev ShiftReg := BitVec 64

/-- A message word of format MSG64 (R59). -/
abbrev MsgWord := BitVec 64

/-- The timestamp counter NOW and PREV_TS: TW = 64 bits (R28, R106). -/
abbrev Stamp := BitVec 64

end Sys2Proof
end

