-- ==== Sys2Proof/Syntax.lean ====
section
/-! DEFINITION. The operations of the block: one constructor per row of spec/opcode_table.json (R2), and the spaces of
condition words that select them (30_encoding.md section 2). -/

namespace Sys2Proof

/-- The spaces of condition words. The table's format HS has one {VALID, READY} pair for each of the four queue ends
(R64) and its format PORT one port for each of the two reads, so each of those is a space of its own (log 7). -/
inductive Format where
  | bin3
  | sr64
  | deccond
  | ecsedge
  | ecspush
  | tick1
  | hsDqPush
  | hsDqPop
  | hsMqPush
  | hsMqPop
  | portHist
  | portStatus
  | rst1
  deriving DecidableEq, Repr

/-- The width in bits of a format's word, operands included (log 8 says where the operands stand). -/
def Format.width : Format → Nat
  | .bin3 => 3
  | .sr64 => 64
  | .deccond => 6
  | .ecsedge => 2
  | .ecspush => 2
  | .tick1 => 1
  | .hsDqPush => 34
  | .hsDqPop => 2
  | .hsMqPush => 2
  | .hsMqPop => 2
  | .portHist => 6
  | .portStatus => 0
  | .rst1 => 1

/-- The 30 operations. An operand is what the row's rule reads besides the block's own registers: the bytes of SR for
a frame-detector row (R65; `b<k>` are the ignored bytes above the marker), `us_tick` for DEC_WAIT (R117), `dq_wr_data`
for DQ_PUSH (R129), `hist_rd_addr` for HIST_RD (R133). -/
inductive Instr where
  /-- CLS_GLITCH (R75) -/
  | clsGlitch
  /-- CLS_REPEAT (R76) -/
  | clsRepeat
  /-- CLS_AMBIG (R77) -/
  | clsAmbig
  /-- CLS_DOUBLE (R78) -/
  | clsDouble
  /-- CLS_IDLE (R79) -/
  | clsIdle
  /-- FD_MATCH5 (R88) -/
  | fdMatch5 (src dest p0 p1 p2 p3 p4 : Byte)
  /-- FD_MATCH4 (R89) -/
  | fdMatch4 (b0 src dest p0 p1 p2 p3 : Byte)
  /-- FD_MATCH3 (R90) -/
  | fdMatch3 (b0 b1 src dest p0 p1 p2 : Byte)
  /-- FD_MATCH2 (R91) -/
  | fdMatch2 (b0 b1 b2 src dest p0 p1 : Byte)
  /-- FD_MATCH1 (R92) -/
  | fdMatch1 (b0 b1 b2 b3 src dest p0 : Byte)
  /-- FD_NONE (R93) -/
  | fdNone (b0 b1 b2 b3 b4 b5 b6 b7 : Byte)
  /-- DEC_IDLE_WAIT (R114) -/
  | decIdleWait
  /-- DEC_START (R115) -/
  | decStart
  /-- DEC_WAIT (R117) -/
  | decWait (tick : Bool)
  /-- DEC_GIVEUP (R118) -/
  | decGiveup
  /-- DEC_CONSUME (R116) -/
  | decConsume
  /-- DEC_EMIT_STALL (R120) -/
  | decEmitStall
  /-- DEC_EMIT (R119) -/
  | decEmit
  /-- DEC_FAULT_HOLD (R121) -/
  | decFaultHold
  /-- ECS_EDGE (R107) -/
  | ecsEdge
  /-- ECS_DROP (R109) -/
  | ecsDrop
  /-- ECS_PUSH (R108) -/
  | ecsPush
  /-- ECS_TICK (R106) -/
  | ecsTick
  /-- DQ_PUSH (R129) -/
  | dqPush (data : Delta)
  /-- DQ_POP (R130) -/
  | dqPop
  /-- MQ_PUSH (R131) -/
  | mqPush
  /-- MQ_POP (R132) -/
  | mqPop
  /-- HIST_RD (R133) -/
  | histRd (addr : BitVec 6)
  /-- STATUS_RD (R134) -/
  | statusRd
  /-- RESET (R161) -/
  | reset
  deriving DecidableEq, Repr

end Sys2Proof
end

