-- ==== Sys2Proof/WellFormed.lean ====
section
/-! DEFINITION. Which operations are well formed: the operands of a frame-detector row must leave it the first row that
matches (R57, R85: the longer frame wins). Every other operand takes every value of its width. -/

namespace Sys2Proof

/-- No row of higher priority matches the bytes that the row leaves open (R89 to R93). -/
def Instr.wf : Instr → Bool
  | .fdMatch4 b0 _ _ _ _ _ _ => b0 != 0xE5
  | .fdMatch3 b0 b1 _ _ _ _ _ => b0 != 0xE5 && b1 != 0xE4
  | .fdMatch2 b0 b1 b2 _ _ _ _ => b0 != 0xE5 && b1 != 0xE4 && b2 != 0xE3
  | .fdMatch1 b0 b1 b2 b3 _ _ _ => b0 != 0xE5 && b1 != 0xE4 && b2 != 0xE3 && b3 != 0xE2
  | .fdNone b0 b1 b2 b3 b4 _ _ _ => b0 != 0xE5 && b1 != 0xE4 && b2 != 0xE3 && b3 != 0xE2 && b4 != 0xE1
  | .clsGlitch | .clsRepeat | .clsAmbig | .clsDouble | .clsIdle => true
  | .fdMatch5 .. => true
  | .decIdleWait | .decStart | .decWait _ | .decGiveup | .decConsume | .decEmitStall | .decEmit | .decFaultHold => true
  | .ecsEdge | .ecsDrop | .ecsPush | .ecsTick => true
  | .dqPush _ | .dqPop | .mqPush | .mqPop => true
  | .histRd _ | .statusRd | .reset => true

end Sys2Proof
end

