-- ==== Sys2Proof/Decode.lean ====
section
/-! DEFINITION. The decoder, total on every word of every format and rejecting by name, then the encoder, both written
from the tables of 30_encoding.md and the match and mask columns of spec/opcode_table.json. -/

namespace Sys2Proof

/-- `Byte(sr, i)` = sr[63-8i : 56-8i]; byte 0 is the oldest (R13, R36). -/
def byteAt (sr : ShiftReg) (i : Nat) : Byte := sr.extractLsb' (56 - 8 * i) 8

/-- Eight bytes as one word, the first most significant (R12, R36): `byteAt (ofBytes b0 … b7) i` is byte i. -/
def ofBytes (b0 b1 b2 b3 b4 b5 b6 b7 : Byte) : BitVec 64 :=
  (b0 ++ b1 ++ b2 ++ b3 ++ b4 ++ b5 ++ b6 ++ b7).setWidth 64

/-- The marker byte 0xE0 | L of payload length L (R57, R58). -/
def markerOf (len : Byte) : Byte := 0xE0 ||| len

/-- Why a word selects no operation. -/
inductive Reject where
  /-- A BIN3 code 0b101 to 0b111: never produced by the classifier, refused (R68). Safe. -/
  | reservedBin
  /-- A condition word that no row of its format matches: nothing fires (R63, R64). -/
  | noRow
  /-- A word with bits set above its format's width: no word of the format. Safe. -/
  | tooWide
  deriving DecidableEq, Repr

/-- Does the word match a row's pattern under its mask (spec/opcode_table.json)? -/
def matchesRow (w mask pattern : BitVec 64) : Bool := w &&& mask == pattern

/-- BIN3 (R56): one row for each of the codes 0 to 4. -/
def decodeBin3 (w : BitVec 64) : Except Reject Instr :=
  if matchesRow w 0b111 0b000 then .ok .clsGlitch
  else if matchesRow w 0b111 0b001 then .ok .clsRepeat
  else if matchesRow w 0b111 0b010 then .ok .clsAmbig
  else if matchesRow w 0b111 0b011 then .ok .clsDouble
  else if matchesRow w 0b111 0b100 then .ok .clsIdle
  else .error .reservedBin

/-- SR64 (R57): the five marker rows in priority order, then FD_NONE; the operands of R65 are cut at fixed bytes. -/
def decodeSr64 (w : BitVec 64) : Instr :=
  let b := byteAt w
  if matchesRow w 0xFF00000000000000 0xE500000000000000 then
    .fdMatch5 (b 1) (b 2) (b 3) (b 4) (b 5) (b 6) (b 7)
  else if matchesRow w 0x00FF000000000000 0x00E4000000000000 then
    .fdMatch4 (b 0) (b 2) (b 3) (b 4) (b 5) (b 6) (b 7)
  else if matchesRow w 0x0000FF0000000000 0x0000E30000000000 then
    .fdMatch3 (b 0) (b 1) (b 3) (b 4) (b 5) (b 6) (b 7)
  else if matchesRow w 0x000000FF00000000 0x000000E200000000 then
    .fdMatch2 (b 0) (b 1) (b 2) (b 4) (b 5) (b 6) (b 7)
  else if matchesRow w 0x00000000FF000000 0x00000000E1000000 then
    .fdMatch1 (b 0) (b 1) (b 2) (b 3) (b 5) (b 6) (b 7)
  else .fdNone (b 0) (b 1) (b 2) (b 3) (b 4) (b 5) (b 6) (b 7)

/-- DECCOND (R62): {DEC_STATE[1:0], DQ_NE, EXPIRE, MQ_NF, TICK}. DEC_WAIT keeps TICK as its operand (R117). -/
def decodeDeccond (w : BitVec 64) : Except Reject Instr :=
  if matchesRow w 0b111000 0b000000 then .ok .decIdleWait
  else if matchesRow w 0b111000 0b001000 then .ok .decStart
  else if matchesRow w 0b111100 0b010000 then .ok (.decWait (w.getLsbD 0))
  else if matchesRow w 0b111100 0b010100 then .ok .decGiveup
  else if matchesRow w 0b111000 0b011000 then .ok .decConsume
  else if matchesRow w 0b110010 0b100000 then .ok .decEmitStall
  else if matchesRow w 0b110010 0b100010 then .ok .decEmit
  else if matchesRow w 0b110000 0b110000 then .ok .decFaultHold
  else .error .noRow

/-- ECSEDGE = {edge, STALLED} (R63). -/
def decodeEcsedge (w : BitVec 64) : Except Reject Instr :=
  if matchesRow w 0b11 0b10 then .ok .ecsEdge
  else if matchesRow w 0b11 0b11 then .ok .ecsDrop
  else .error .noRow

/-- A handshake word {VALID, READY} transfers exactly when both bits are 1 (R64). -/
def decodeHs (i : Instr) (w : BitVec 64) : Except Reject Instr :=
  if matchesRow w 0b11 0b11 then .ok i else .error .noRow

/-- The decoder: the operation that a word of a format selects, or why it selects none. -/
def decode (f : Format) (w : BitVec 64) : Except Reject Instr :=
  if 2 ^ f.width ≤ w.toNat then .error .tooWide
  else match f with
    | .bin3 => decodeBin3 w
    | .sr64 => .ok (decodeSr64 w)
    | .deccond => decodeDeccond w
    | .ecsedge => decodeEcsedge w
    | .ecspush => if matchesRow w 0b11 0b10 then .ok .ecsPush else .error .noRow
    | .tick1 => if matchesRow w 0b1 0b1 then .ok .ecsTick else .error .noRow
    | .hsDqPush => decodeHs (.dqPush (w.extractLsb' 2 32)) w
    | .hsDqPop => decodeHs .dqPop w
    | .hsMqPush => decodeHs .mqPush w
    | .hsMqPop => decodeHs .mqPop w
    | .portHist => .ok (.histRd (w.extractLsb' 0 6))
    | .portStatus => .ok .statusRd
    | .rst1 => if matchesRow w 0b1 0b1 then .ok .reset else .error .noRow

/-- What fires in a format in one cycle: the operation its word selects, or nothing (R63, R64). -/
def selected (f : Format) (w : BitVec 64) : List Instr :=
  match decode f w with
  | .ok i => [i]
  | .error _ => []

/-- The encoder: the format of an operation and its word there, every bit the row's mask leaves free 0 except where an
operand of the operation stands in it. -/
def encode : Instr → Format × BitVec 64
  | .clsGlitch => (.bin3, 0b000)
  | .clsRepeat => (.bin3, 0b001)
  | .clsAmbig => (.bin3, 0b010)
  | .clsDouble => (.bin3, 0b011)
  | .clsIdle => (.bin3, 0b100)
  | .fdMatch5 src dest p0 p1 p2 p3 p4 => (.sr64, ofBytes (markerOf 5) src dest p0 p1 p2 p3 p4)
  | .fdMatch4 b0 src dest p0 p1 p2 p3 => (.sr64, ofBytes b0 (markerOf 4) src dest p0 p1 p2 p3)
  | .fdMatch3 b0 b1 src dest p0 p1 p2 => (.sr64, ofBytes b0 b1 (markerOf 3) src dest p0 p1 p2)
  | .fdMatch2 b0 b1 b2 src dest p0 p1 => (.sr64, ofBytes b0 b1 b2 (markerOf 2) src dest p0 p1)
  | .fdMatch1 b0 b1 b2 b3 src dest p0 => (.sr64, ofBytes b0 b1 b2 b3 (markerOf 1) src dest p0)
  | .fdNone b0 b1 b2 b3 b4 b5 b6 b7 => (.sr64, ofBytes b0 b1 b2 b3 b4 b5 b6 b7)
  | .decIdleWait => (.deccond, 0b000000)
  | .decStart => (.deccond, 0b001000)
  | .decWait tick => (.deccond, 0b010000 ||| (BitVec.ofBool tick).zeroExtend 64)
  | .decGiveup => (.deccond, 0b010100)
  | .decConsume => (.deccond, 0b011000)
  | .decEmitStall => (.deccond, 0b100000)
  | .decEmit => (.deccond, 0b100010)
  | .decFaultHold => (.deccond, 0b110000)
  | .ecsEdge => (.ecsedge, 0b10)
  | .ecsDrop => (.ecsedge, 0b11)
  | .ecsPush => (.ecspush, 0b10)
  | .ecsTick => (.tick1, 0b1)
  | .dqPush data => (.hsDqPush, (data ++ (0b11 : BitVec 2)).zeroExtend 64)
  | .dqPop => (.hsDqPop, 0b11)
  | .mqPush => (.hsMqPush, 0b11)
  | .mqPop => (.hsMqPop, 0b11)
  | .histRd addr => (.portHist, addr.zeroExtend 64)
  | .statusRd => (.portStatus, 0)
  | .reset => (.rst1, 0b1)

/-- The formats a bare table word of at most a byte is read in, in this order. The spec's table has thirteen spaces of
condition words and its words do not name their space (the word 0b11 is a row of five of them), so a word with no
format is ambiguous; this order is DESIGN CHOICE (log 7). The machine itself never uses it. -/
def tableOrder : List Format :=
  [.bin3, .deccond, .ecsedge, .ecspush, .tick1, .rst1, .hsDqPush, .hsDqPop, .hsMqPush, .hsMqPop, .portHist, .portStatus]

/-- The first format of a list in which the word selects an operation. -/
def firstSelected : List Format → BitVec 64 → Option Instr
  | [], _ => none
  | f :: fs, w =>
    match decode f w with
    | .ok i => some i
    | .error _ => firstSelected fs w

/-- The operation the decoder reads from a bare table word: a word of at most a byte in `tableOrder`, a wider one as a
shift register (log 7). -/
def decodeTableWord (nbits w : Nat) : Option Instr :=
  let v := BitVec.ofNat 64 (w % 2 ^ nbits)
  if nbits ≤ 8 then firstSelected tableOrder v
  else
    match decode .sr64 v with
    | .ok i => some i
    | .error _ => none

end Sys2Proof
end

