-- ==== Sys2Proof/Config.lean ====
section
/-! DEFINITION. What is fixed for one block: the parameters of Table P (00_scope.md), the two build parameters of R11,
what an unwritten history entry reads as, and the free values. -/

namespace Sys2Proof

/-- DELTA_SOURCE (R11, D8): the delta queue is fed by the Edge Capture Stage or by the external port. -/
inductive DeltaSource where
  | ecs
  | external
  deriving DecidableEq, Repr

/-- The build parameters that change behaviour (R11). No operation writes them (log 4). -/
structure Params where
  feedStartDelta : Bool
  deltaSource    : DeltaSource
  deriving DecidableEq, Repr

namespace Config

/-- T_ONE, the upper bound of the glitch bin, in microseconds (R8). -/
abbrev tOne : Nat := 750
/-- T_ONE_FIVE, the upper bound of the one-bit-time bin (R8). -/
abbrev tOneFive : Nat := 1250
/-- T_TWO, the upper bound of the 1.5-bit-time bin (R8). -/
abbrev tTwo : Nat := 1750
/-- T_TIMEOUT, the upper bound of the two-bit-time bin (R8). -/
abbrev tTimeout : Nat := 2250
/-- GIVEUP_US, the give-up interval T_TIMEOUT + 250 (R8). -/
abbrev giveupUs : Nat := tTimeout + 250
/-- DQ_DEPTH (R9). -/
abbrev dqDepth : Nat := 8
/-- MQ_DEPTH (R9). -/
abbrev mqDepth : Nat := 4
/-- HIST_DEPTH (R9). -/
abbrev histDepth : Nat := 64
/-- LEN_MIN and LEN_MAX, the payload bounds in bytes (Table P, R69). -/
abbrev lenMin : Nat := 1
abbrev lenMax : Nat := 5
/-- TICK_MIN_SPACING, a premise on the environment (R21). -/
abbrev tickMinSpacing : Nat := 2

/-- The defaults of R11: FEED_START_DELTA = false, DELTA_SOURCE = ECS. -/
def defaultParams : Params := { feedStartDelta := false, deltaSource := .ecs }

/-- What a history index nothing has written reads as (R33 leaves it unspecified; DESIGN CHOICE 0, log 1, unsafe). -/
def histUnwritten : Delta := 0

end Config

/-- FREE VALUE (log 2): what `mq_rd_data` shows while `mq_rd_valid` = 0, which R132 leaves unspecified.
Applied to the state's counter; nothing says which word it is. -/
opaque Config.freeMqRdData : Nat → MsgWord

end Sys2Proof
end

