-- ==== Sys2Proof/Machine/State.lean ====
section
/-! DEFINITION. The state of the block (10_state.md), the ports (Table IF), the reasons a step can stop, and the state
after reset (R33). Plain data throughout. -/

namespace Sys2Proof.Machine

/-- DEC_STATE (R24, R60): all four codes are used. -/
inductive DecState where
  | idle
  | framing
  | emit
  | fault
  deriving DecidableEq, Repr

/-- FAULT_CODE (R60, Table FC of 60_exceptions.md). Code 3 is reserved and never written, so it has no name here. -/
inductive FaultCode where
  | none
  | histOvf
  | msgLen
  deriving DecidableEq, Repr

/-- The five bins of the classifier (R56). -/
inductive Bin where
  | glitch
  | repeat1
  | ambig
  | double
  | idle
  deriving DecidableEq, Repr

/-- What one scan of the frame detector gives (R85, R86): nothing, a message word, or the length check's failure
(R146, never reached; log 12). -/
inductive Scan where
  | none
  | found (word : MsgWord)
  | badLen
  deriving DecidableEq, Repr

/-- What a consume answers (R101): a fault, a match with its message word, or nothing. -/
inductive Consumed where
  | fault (code : FaultCode)
  | found (word : MsgWord)
  | none
  deriving DecidableEq, Repr

/-- The history HIST (R26, R34): index and entry pairs in canonical form (see `Memory.wf`). -/
structure Memory where
  cells : List (Nat × Delta)
  deriving DecidableEq, Repr

/-- The registers of the Edge Capture Stage (Table S-ECS). -/
structure Ecs where
  /-- NOW -/
  now       : Stamp
  /-- PREV_TS -/
  prevTs    : Stamp
  /-- HOLD_VALID -/
  holdValid : Bool
  /-- HOLD_DELTA -/
  holdDelta : Delta
  deriving DecidableEq, Repr

/-- The registers of the Comms Decoder (R105: written only by NEW, CONSUME and reset). -/
structure Decoder where
  /-- SR -/
  sr       : ShiftReg
  /-- BIT_COUNT -/
  bitCount : BitVec 8
  /-- HIST_LEN -/
  histLen  : BitVec 7
  /-- HIST -/
  hist     : Memory
  deriving DecidableEq, Repr

/-- The input ports of one cycle (Table IF); `clk` is the step itself. -/
structure PortsIn where
  rst        : Bool
  usTick     : Bool
  edge       : Bool
  dqWrValid  : Bool
  dqWrData   : Delta
  mqRdReady  : Bool
  histRdAddr : BitVec 6
  deriving DecidableEq, Repr

/-- A cycle with no input high. -/
def PortsIn.low : PortsIn :=
  { rst := false, usTick := false, edge := false, dqWrValid := false, dqWrData := 0, mqRdReady := false,
    histRdAddr := 0 }

/-- The output ports of one cycle (Table IF). -/
structure PortsOut where
  dqWrReady     : Bool
  mqRdValid     : Bool
  mqRdData      : MsgWord
  histRdData    : Delta
  status        : BitVec 32
  fault         : Bool
  emitPulse     : Bool
  abandonPulse  : Bool
  edgeDropPulse : Bool
  deriving DecidableEq, Repr

/-- Every output low: the model's record of the ports before any cycle has been run (DESIGN CHOICE, log 11). -/
def PortsOut.low : PortsOut :=
  { dqWrReady := false, mqRdValid := false, mqRdData := 0, histRdData := 0, status := 0, fault := false,
    emitPulse := false, abandonPulse := false, edgeDropPulse := false }

/-- The values that one operation hands to another, or to the Consumer, inside a cycle (the model's own record of the
spec's return values, log 11). -/
structure Nets where
  /-- the delta DQ_POP hands to the Decode Stage (R130) -/
  popped : Option Delta
  /-- the message the Consumer takes (R132) -/
  taken  : Option MsgWord
  /-- the frame detector's result (R85) -/
  scan   : Scan
  deriving DecidableEq, Repr

/-- Nothing handed over. -/
def Nets.idle : Nets := { popped := none, taken := none, scan := .none }

/-- The state: the spec's registers (Tables S-ECS, S-DEC, S-Q, S-EV of 10_state.md), then the model's own fields. -/
structure State where
  ecs           : Ecs
  dec           : Decoder
  /-- DEC_STATE -/
  decState      : DecState
  /-- GIVEUP_CNT -/
  giveupCnt     : BitVec 12
  /-- MSG_HOLD -/
  msgHold       : MsgWord
  /-- FAULT_CODE -/
  faultCode     : FaultCode
  /-- DQ, head first -/
  dq            : List Delta
  /-- MQ, head first -/
  mq            : List MsgWord
  /-- EMIT_PULSE -/
  emitPulse     : Bool
  /-- ABANDON_PULSE -/
  abandonPulse  : Bool
  /-- EDGE_DROP_PULSE -/
  edgeDropPulse : Bool
  /-- MODEL: the build parameters, which nothing writes (log 4) -/
  params        : Params
  /-- MODEL: the input ports of the cycles to come, oldest first; all low when the list is used up (log 5) -/
  inputs        : List PortsIn
  /-- MODEL: the output ports as the last cycle showed them (log 11) -/
  out           : PortsOut
  /-- MODEL: the values handed over inside the last cycle (log 11) -/
  nets          : Nets
  /-- MODEL: the number of the next free value (log 2) -/
  freeCtr       : Nat
  deriving DecidableEq, Repr

/-- Reasons the machine would stop. There is none: the block's one fault, HIST_OVF, enters the state FAULT (R145), in
which the other agents and every port go on (R147), so it is a next state and no stop (log 13). -/
inductive Fault
  deriving DecidableEq, Repr

/-- Reasons there is no meaning. -/
inductive Refusal where
  /-- Raised only by an arm of `exec` whose operation has no meaning yet; safe. No arm raises it. -/
  | notModelled (mnemonic : String)
  deriving DecidableEq, Repr

/-- What an operation or a step answers. -/
abbrev Result := Host.Outcome State Fault Refusal

/-- The decoder registers after reset (R33): SR is the seed 1; HIST lists nothing (log 1). -/
def Decoder.reset : Decoder := { sr := 1, bitCount := 0, histLen := 0, hist := { cells := [] } }

/-- The capture registers after reset (R33). -/
def Ecs.reset : Ecs := { now := 0, prevTs := 0, holdValid := false, holdDelta := 0 }

/-- The block right after reset (R33), with the default build parameters (R11). -/
def State.reset : State :=
  { ecs := Ecs.reset
    dec := Decoder.reset
    decState := .idle
    giveupCnt := 0
    msgHold := 0
    faultCode := .none
    dq := []
    mq := []
    emitPulse := false
    abandonPulse := false
    edgeDropPulse := false
    params := Config.defaultParams
    inputs := []
    out := PortsOut.low
    nets := Nets.idle
    freeCtr := 0 }

end Sys2Proof.Machine
end

