-- ==== Sys2Proof/Machine/Ops.lean ====
section
/-! DEFINITION. The named operations over the block's storage (R15): history reads and writes, queue pushes and pops,
entering the fault state (R145, the block's one exception) and the reset that alone leaves it (R153, R161). -/

namespace Sys2Proof.Machine

/-- Canonical form of a tail whose indices must be at least `lo`: strictly rising, below HIST_DEPTH, no entry equal to
what an unlisted index reads as. -/
def Memory.wfFrom : Nat → List (Nat × Delta) → Bool
  | _, [] => true
  | lo, (k, v) :: m => decide (lo ≤ k) && decide (k < Config.histDepth) && v != Config.histUnwritten && Memory.wfFrom (k + 1) m

/-- The canonical form of the history. -/
def Memory.wf (m : Memory) : Bool := Memory.wfFrom 0 m.cells

/-- The entry at an index of a list of cells. -/
def Memory.readCells : List (Nat × Delta) → Nat → Delta
  | [], _ => Config.histUnwritten
  | (k, v) :: m, a => if k = a then v else Memory.readCells m a

/-- A list of cells with one entry put before the rest, or left out when it equals what an unlisted index reads as. -/
def Memory.putCell (a : Nat) (v : Delta) (m : List (Nat × Delta)) : List (Nat × Delta) :=
  if v = Config.histUnwritten then m else (a, v) :: m

/-- The cells after a write of one entry. -/
def Memory.writeCells : List (Nat × Delta) → Nat → Delta → List (Nat × Delta)
  | [], a, v => Memory.putCell a v []
  | (k, x) :: m, a, v =>
    if a < k then Memory.putCell a v ((k, x) :: m)
    else if a = k then Memory.putCell a v m
    else (k, x) :: Memory.writeCells m a v

/-- `MemRead(HIST, a, 1)` (R15, R34): every 6-bit index names an element. -/
def Memory.read (m : Memory) (a : BitVec 6) : Delta := Memory.readCells m.cells a.toNat

/-- `MemWrite(HIST, a, 1, v)` (R15, R34). -/
def Memory.write (m : Memory) (a : BitVec 6) (v : Delta) : Memory :=
  { cells := Memory.writeCells m.cells a.toNat v }

/-- `FifoPush(DQ, v)` (R126). A full queue takes nothing and its producer waits (R127). -/
def pushDq (v : Delta) (s : State) : State :=
  if s.dq.length < Config.dqDepth then { s with dq := s.dq ++ [v] } else s

/-- `FifoPush(MQ, v)` (R126, R127). -/
def pushMq (v : MsgWord) (s : State) : State :=
  if s.mq.length < Config.mqDepth then { s with mq := s.mq ++ [v] } else s

/-- `FifoPop(DQ)` (R126): the head, handed to the Decode Stage, and the state without it; none when the queue is empty,
where the Decode Stage does nothing (R127). -/
def popDq (s : State) : Option (Delta × State) :=
  match s.dq with
  | [] => none
  | d :: rest => some (d, { s with dq := rest, nets := { s.nets with popped := some d } })

/-- `FifoPop(MQ)` by the Consumer (R132): it takes the head; an empty queue gives nothing (R127). -/
def popMq (s : State) : State :=
  match s.mq with
  | [] => s
  | m :: rest => { s with mq := rest, nets := { s.nets with taken := some m } }

/-- `raise Fault(code)`: FAULT_CODE <- code, DEC_STATE <- FAULT and nothing else (R145, R146). There is no vector, no
handler and no saved register; GIVEUP_CNT is written by the calling operation. -/
def raiseFault (code : FaultCode) (s : State) : State :=
  { s with faultCode := code, decState := .fault }

/-- The writes of RESET (R161), the only way out of FAULT (R153): every register but HIST, which keeps its contents. -/
def resetBlock (s : State) : State :=
  { s with
    ecs := Ecs.reset
    dec := { Decoder.reset with hist := s.dec.hist }
    decState := .idle
    giveupCnt := 0
    msgHold := 0
    faultCode := .none
    dq := []
    mq := []
    emitPulse := false
    abandonPulse := false
    edgeDropPulse := false }

end Sys2Proof.Machine
end

