-- ==== Sys2Proof/Machine/Operands.lean ====
section
/-! DEFINITION. Operand assembly (30_encoding.md section 3) and the data formats that cross the ports: the delta of an
edge (R67), the bins of a delta (R72), the fields of a message (R59, R65, R86), the state and fault codes (R60). -/

namespace Sys2Proof.Machine

/-- `min((NOW - PREV_TS) mod 2^64, 2^32 - 1)` (R67). -/
def assembleDelta (now prev : Stamp) : Delta :=
  if (now - prev).toNat < 2 ^ 32 then BitVec.ofNat 32 (now - prev).toNat else BitVec.allOnes 32

/-- The delta of the give-up consume, GIVEUP_US = 2500 (R80, R118). -/
def giveupDelta : Delta := BitVec.ofNat 32 Config.giveupUs

/-- `Classify(d)` (R72): each range closed at its upper end. -/
def classify (d : Delta) : Bin :=
  if d.toNat ≤ Config.tOne then .glitch
  else if d.toNat ≤ Config.tOneFive then .repeat1
  else if d.toNat ≤ Config.tTwo then .ambig
  else if d.toNat ≤ Config.tTimeout then .double
  else .idle

/-- The bin code of format BIN3 (R56). -/
def binCode : Bin → BitVec 3
  | .glitch => 0b000
  | .repeat1 => 0b001
  | .ambig => 0b010
  | .double => 0b011
  | .idle => 0b100

/-- DEC_STATE's code (R60). -/
def decStateCode : DecState → BitVec 2
  | .idle => 0b00
  | .framing => 0b01
  | .emit => 0b10
  | .fault => 0b11

/-- The state of a code (R60): no code is reserved. -/
def decStateOf (c : BitVec 2) : DecState :=
  if c = 0b00 then .idle else if c = 0b01 then .framing else if c = 0b10 then .emit else .fault

/-- FAULT_CODE's code (R60). -/
def faultCodeBits : FaultCode → BitVec 2
  | .none => 0b00
  | .histOvf => 0b01
  | .msgLen => 0b10

/-- The fault of a code (R60): 0b11 is reserved and refused (93_implementation_defined.md). -/
def faultCodeOf (c : BitVec 2) : Option FaultCode :=
  if c = 0b00 then some .none else if c = 0b01 then some .histOvf else if c = 0b10 then some .msgLen else none

/-- The type half of a source or destination byte, bits 7:3 (R58, R65). -/
def typeOf (b : Byte) : BitVec 5 := b.extractLsb' 3 5
/-- The address half of a source or destination byte, bits 2:0 (R58, R65). -/
def addrOf (b : Byte) : BitVec 3 := b.extractLsb' 0 3

/-- A message word of format MSG64 (R59): {0, LEN, SRC_BYTE, DEST_BYTE, P0, P1, P2, P3, P4}. -/
def packMsg (len : BitVec 3) (src dest p0 p1 p2 p3 p4 : Byte) : MsgWord :=
  ofBytes (len.zeroExtend 8) src dest p0 p1 p2 p3 p4

/-- The message word of a frame (R58, R59). -/
def frameWord (src dest : Byte) (payload : List Byte) : MsgWord :=
  packMsg (BitVec.ofNat 3 payload.length) src dest (payload.getD 0 0) (payload.getD 1 0) (payload.getD 2 0)
    (payload.getD 3 0) (payload.getD 4 0)

/-- Fields of a message word (table of 30_encoding.md section 1.5). -/
def msgReserved (w : MsgWord) : BitVec 5 := w.extractLsb' 59 5
def msgLen (w : MsgWord) : BitVec 3 := w.extractLsb' 56 3
def msgSrc (w : MsgWord) : Byte := w.extractLsb' 48 8
def msgDest (w : MsgWord) : Byte := w.extractLsb' 40 8
def msgPayload (w : MsgWord) (j : Nat) : Byte := w.extractLsb' (32 - 8 * j) 8

/-- A word that the block may push (R59, R69): reserved bits 0, LEN in 1..5, payload bytes beyond LEN 0. -/
def msgOk (w : MsgWord) : Bool :=
  msgReserved w == 0 && decide (Config.lenMin ≤ (msgLen w).toNat) && decide ((msgLen w).toNat ≤ Config.lenMax) &&
    (List.range 5).all (fun j => decide (j < (msgLen w).toNat) || msgPayload w j == 0)

/-- BuildMsg (R86) from the marker byte and the bytes after it: the length check, then the packed word. The caller
passes 0 for the payload bytes beyond the length. -/
def buildMsg (marker src dest p0 p1 p2 p3 p4 : Byte) : Scan :=
  let len := marker &&& 0x1F
  if len.toNat < Config.lenMin ∨ Config.lenMax < len.toNat then .badLen
  else .found (packMsg (len.extractLsb' 0 3) src dest p0 p1 p2 p3 p4)

/-- Payload byte j of the frame of length L that ends SR, 0 beyond its length (R65, R86). -/
def framePayload (sr : ShiftReg) (len j : Nat) : Byte :=
  if j < len then byteAt sr (8 - len + j) else 0

/-- `BuildMsg(SR, L)` (R86), with the operands of R65. -/
def buildMsgAt (sr : ShiftReg) (len : Nat) : Scan :=
  buildMsg (byteAt sr (5 - len)) (byteAt sr (6 - len)) (byteAt sr (7 - len))
    (framePayload sr len 0) (framePayload sr len 1) (framePayload sr len 2) (framePayload sr len 3)
    (framePayload sr len 4)

/-- `Detect` over the lengths still to try: the first whose marker stands at its offset (R85). -/
def detectFrom (sr : ShiftReg) : List Nat → Scan
  | [] => .none
  | len :: rest => if byteAt sr (5 - len) = markerOf (BitVec.ofNat 8 len) then buildMsgAt sr len else detectFrom sr rest

/-- `Detect(SR)` (R85): lengths 5, 4, 3, 2, 1, strictly in this order. -/
def detect (sr : ShiftReg) : Scan := detectFrom sr [5, 4, 3, 2, 1]

end Sys2Proof.Machine
end

