-- ==== Sys2Proof/Machine/Flags.lean ====
section
/-! DEFINITION. The derived conditions (R29), the condition words that select the operations of a cycle (R62 to R64),
the STATUS word (R61) and the output ports (Table IF), each a function of the start-of-cycle state (R20). -/

namespace Sys2Proof.Machine

/-- LAST_BIT = SR[0] (R29, R73). -/
def Decoder.lastBit (c : Decoder) : Bool := c.sr.getLsbD 0
/-- HIST full: HIST_LEN = 64 (R29). -/
def Decoder.histFull (c : Decoder) : Bool := c.histLen.toNat == Config.histDepth

/-- DQ_NE = Count(DQ) > 0 (R62). -/
def State.dqNe (s : State) : Bool := decide (0 < s.dq.length)
/-- DQ_FULL = Count(DQ) == 8 (R63). -/
def State.dqFull (s : State) : Bool := s.dq.length == Config.dqDepth
/-- `dq_wr_ready` = Count(DQ) < 8 (R129). -/
def State.dqReady (s : State) : Bool := decide (s.dq.length < Config.dqDepth)
/-- MQ_NF = Count(MQ) < 4 (R62). -/
def State.mqNf (s : State) : Bool := decide (s.mq.length < Config.mqDepth)
/-- `mq_rd_valid` = Count(MQ) > 0 (R132). -/
def State.mqValid (s : State) : Bool := decide (0 < s.mq.length)
/-- STALLED = HOLD_VALID and DQ full (R63). -/
def State.stalled (s : State) : Bool := s.ecs.holdValid && s.dqFull
/-- The `fault` output: DEC_STATE == FAULT (R148). -/
def State.inFault (s : State) : Bool := s.decState == .fault
/-- The Decode Stage takes deltas: DEC_STATE in {IDLE, FRAMING} (R64). -/
def State.takesDeltas (s : State) : Bool := s.decState == .idle || s.decState == .framing

/-- EXPIRE = us_tick and GIVEUP_CNT == GIVEUP_US - 1 (R62). -/
def State.expire (s : State) (tick : Bool) : Bool := tick && s.giveupCnt.toNat == Config.giveupUs - 1

/-- One bit as a word. -/
def bit (b : Bool) : BitVec 1 := BitVec.ofBool b

/-- DECCOND = {DEC_STATE[1:0], DQ_NE, EXPIRE, MQ_NF, TICK} (R62). -/
def deccondWord (p : PortsIn) (s : State) : BitVec 64 :=
  (decStateCode s.decState ++ bit s.dqNe ++ bit (s.expire p.usTick) ++ bit s.mqNf ++ bit p.usTick).zeroExtend 64

/-- ECSEDGE = {edge, STALLED} (R63). -/
def ecsedgeWord (p : PortsIn) (s : State) : BitVec 64 := (bit p.edge ++ bit s.stalled).zeroExtend 64
/-- ECSPUSH = {HOLD_VALID, DQ_FULL} (R63). -/
def ecspushWord (s : State) : BitVec 64 := (bit s.ecs.holdValid ++ bit s.dqFull).zeroExtend 64
/-- TICK1 = {us_tick} (R63). -/
def tick1Word (p : PortsIn) : BitVec 64 := (bit p.usTick).zeroExtend 64
/-- HS = {VALID, READY} (R64). -/
def hsWord (valid ready : Bool) : BitVec 64 := (bit valid ++ bit ready).zeroExtend 64
/-- HS of DQ_PUSH, with `dq_wr_data` above it as the operand (R64, R129). -/
def hsDqPushWord (p : PortsIn) (s : State) : BitVec 64 :=
  (p.dqWrData ++ (bit p.dqWrValid ++ bit s.dqReady)).zeroExtend 64
/-- HS of DQ_POP (R64, R130). -/
def hsDqPopWord (s : State) : BitVec 64 := hsWord s.dqNe s.takesDeltas
/-- HS of MQ_PUSH (R64, R131). -/
def hsMqPushWord (s : State) : BitVec 64 := hsWord (s.decState == .emit) s.mqNf
/-- HS of MQ_POP (R64, R132). -/
def hsMqPopWord (p : PortsIn) (s : State) : BitVec 64 := hsWord s.mqValid p.mqRdReady
/-- RST1 = {rst} (R64). -/
def rst1Word (p : PortsIn) : BitVec 64 := (bit p.rst).zeroExtend 64

/-- The STATUS word (R61). -/
def State.statusWord (s : State) : BitVec 32 :=
  ((0 : BitVec 5) ++ s.dec.bitCount ++ s.dec.histLen ++ faultCodeBits s.faultCode ++ bit s.ecs.holdValid ++
    BitVec.ofNat 3 s.mq.length ++ BitVec.ofNat 4 s.dq.length ++ decStateCode s.decState).setWidth 32

/-- What `mq_rd_data` shows (R132): the head, or while MQ is empty a free value (log 2). -/
def State.mqRdData (s : State) : MsgWord :=
  match s.mq with
  | [] => Config.freeMqRdData s.freeCtr
  | m :: _ => m

/-- The counter of free values after a cycle has shown the ports: one more while MQ is empty (log 2). -/
def State.nextFree (s : State) : Nat :=
  match s.mq with
  | [] => s.freeCtr + 1
  | _ :: _ => s.freeCtr

/-- The output ports that are not a read port's, as functions of start-of-cycle state (R20, R129, R132, R148, R150). -/
def showPorts (s : State) : State :=
  { s with
    out := { s.out with
      dqWrReady := s.dqReady
      mqRdValid := s.mqValid
      mqRdData := s.mqRdData
      fault := s.inFault
      emitPulse := s.emitPulse
      abandonPulse := s.abandonPulse
      edgeDropPulse := s.edgeDropPulse }
    freeCtr := s.nextFree }

end Sys2Proof.Machine
end

