-- ==== Sys2Proof/Machine/BitRecovery.lean ====
section
/-! DEFINITION. The Bit Recovery Unit (40_bit_recovery.md): the five bins on the decoder's SR and BIT_COUNT, the step
`Recover` that a consume takes, and the meanings of the five CLS rows. -/

namespace Sys2Proof.Machine

/-- GLITCH: `SR' = SR; BC' = BC` (R75). -/
def recoverGlitch (c : Decoder) : Decoder := c

/-- REPEAT: shift in LAST_BIT (R76). -/
def recoverRepeat (c : Decoder) : Decoder :=
  { c with sr := (c.sr <<< 1) ||| (bit c.lastBit).zeroExtend 64, bitCount := c.bitCount + 1 }

/-- AMBIG: shift in 00 after a 1, else shift in 1 (R77). -/
def recoverAmbig (c : Decoder) : Decoder :=
  if c.lastBit then { c with sr := c.sr <<< 2, bitCount := c.bitCount + 2 }
  else { c with sr := (c.sr <<< 1) ||| 1, bitCount := c.bitCount + 1 }

/-- DOUBLE: shift in 0 then 1 (R78). -/
def recoverDouble (c : Decoder) : Decoder :=
  { c with sr := (c.sr <<< 2) ||| 0b01, bitCount := c.bitCount + 2 }

/-- IDLE: shift in one 0 (R79). -/
def recoverIdle (c : Decoder) : Decoder :=
  { c with sr := c.sr <<< 1, bitCount := c.bitCount + 1 }

/-- The recovery of one bin. -/
def recoverBin : Bin → Decoder → Decoder
  | .glitch => recoverGlitch
  | .repeat1 => recoverRepeat
  | .ambig => recoverAmbig
  | .double => recoverDouble
  | .idle => recoverIdle

/-- `Recover(SR, BC, d)` (R74). -/
def recover (d : Delta) (c : Decoder) : Decoder := recoverBin (classify d) c

/-- One bit entering SR at bit 0 (R13, R35). -/
def shiftIn (sr : ShiftReg) (b : Bool) : ShiftReg := (sr <<< 1) ||| (bit b).zeroExtend 64

/-- The bits that one delta shifts in after the bit `b`, oldest first (R66). -/
def bitsOfBin (b : Bool) : Bin → List Bool
  | .glitch => []
  | .repeat1 => [b]
  | .ambig => if b then [false, false] else [true]
  | .double => [false, true]
  | .idle => [false]

/-- The bits that a sequence of deltas shifts in after the bit `b`, oldest first (R81, R98). -/
def recoveredBits : Bool → List Delta → List Bool
  | _, [] => []
  | b, d :: ds => bitsOfBin b (classify d) ++ recoveredBits ((bitsOfBin b (classify d)).getLastD b) ds

/-- CLS_GLITCH (R75). -/
def execClsGlitch (s : State) : Result := .next { s with dec := recoverGlitch s.dec }
/-- CLS_REPEAT (R76). -/
def execClsRepeat (s : State) : Result := .next { s with dec := recoverRepeat s.dec }
/-- CLS_AMBIG (R77). -/
def execClsAmbig (s : State) : Result := .next { s with dec := recoverAmbig s.dec }
/-- CLS_DOUBLE (R78). -/
def execClsDouble (s : State) : Result := .next { s with dec := recoverDouble s.dec }
/-- CLS_IDLE (R79). -/
def execClsIdle (s : State) : Result := .next { s with dec := recoverIdle s.dec }

end Sys2Proof.Machine
end

