-- ==== Sys2Proof/Machine/FrameDetector.lean ====
section
/-! DEFINITION. The meanings of the six FD rows (41_frame_detector.md section 2). A row's operands are the bytes of SR;
its result, which R85 returns to the consume, is left on the net `scan`; no register is written (R87). -/

namespace Sys2Proof.Machine

/-- The detector's result, handed to the consume that called it. -/
def setScan (r : Scan) (s : State) : State := { s with nets := { s.nets with scan := r } }

/-- FD_MATCH5 (R88): `return Some(BuildMsg(SR, 5))`. -/
def execFdMatch5 (src dest p0 p1 p2 p3 p4 : Byte) (s : State) : Result :=
  .next (setScan (buildMsg (markerOf 5) src dest p0 p1 p2 p3 p4) s)

/-- FD_MATCH4 (R89); byte 0 is ignored. -/
def execFdMatch4 (src dest p0 p1 p2 p3 : Byte) (s : State) : Result :=
  .next (setScan (buildMsg (markerOf 4) src dest p0 p1 p2 p3 0) s)

/-- FD_MATCH3 (R90); bytes 0 and 1 are ignored. -/
def execFdMatch3 (src dest p0 p1 p2 : Byte) (s : State) : Result :=
  .next (setScan (buildMsg (markerOf 3) src dest p0 p1 p2 0 0) s)

/-- FD_MATCH2 (R91); bytes 0 to 2 are ignored. -/
def execFdMatch2 (src dest p0 p1 : Byte) (s : State) : Result :=
  .next (setScan (buildMsg (markerOf 2) src dest p0 p1 0 0 0) s)

/-- FD_MATCH1 (R92); bytes 0 to 3 are ignored. -/
def execFdMatch1 (src dest p0 : Byte) (s : State) : Result :=
  .next (setScan (buildMsg (markerOf 1) src dest p0 0 0 0 0) s)

/-- FD_NONE (R93): `return None`. -/
def execFdNone (s : State) : Result := .next (setScan .none s)

end Sys2Proof.Machine
end

