-- ==== Sys2Proof/Machine/CommsDecoder.lean ====
section
/-! DEFINITION. The Comms Decoder (42_comms_decoder.md): NEW, CONSUME, and the run of one attempt over a list of deltas
(R142). These act on the decoder registers alone (R105). -/

namespace Sys2Proof.Machine

/-- NEW (R100): the seed, no bits, no history; the entries of HIST are kept. -/
def newAttempt (c : Decoder) : Decoder := { c with sr := 1, bitCount := 0, histLen := 0 }

/-- `MemWrite(HIST, HIST_LEN, 1, d); HIST_LEN <- HIST_LEN + 1` (R101). HIST_LEN is below 64 where this is reached, so
its low six bits are the index (log 16). -/
def appendHist (d : Delta) (c : Decoder) : Decoder :=
  { c with hist := c.hist.write (c.histLen.setWidth 6) d, histLen := c.histLen + 1 }

/-- What a scan makes of a consume (R101, R146). -/
def consumedOf : Scan → Consumed
  | .none => .none
  | .found w => .found w
  | .badLen => .fault .msgLen

/-- CONSUME(d) (R101): the overflow check comes first and leaves everything as it was; then the bit recovery, the scan
of the new SR and the append. -/
def consume (d : Delta) (c : Decoder) : Consumed × Decoder :=
  if c.histFull then (.fault .histOvf, c)
  else (consumedOf (detect (recover d c).sr), appendHist d (recover d c))

/-- The detector's result inside a consume; the overflow is found before any scan (R101). -/
def scanOf : Consumed → Scan
  | .none => .none
  | .found w => .found w
  | .fault .msgLen => .badLen
  | .fault _ => .none

/-- How the deltas of one attempt come out (R142): the consumes up to the first that answers something, its answer, and
the decoder after it. -/
def attempt : List Delta → Decoder → Consumed × Decoder
  | [], c => (.none, c)
  | d :: ds, c =>
    match consume d c with
    | (.none, c') => attempt ds c'
    | r => r

end Sys2Proof.Machine
end

