-- ==== Sys2Proof/Machine/DecodeStage.lean ====
section
/-! DEFINITION. The Decode Stage (44_decode_stage.md): OUTCOME and the eight rows of format DECCOND. A row's meaning is
what its rule writes once its condition word has selected it (R62; log 9); where a row pops or pushes a queue that
cannot transfer, it waits (R127). -/

namespace Sys2Proof.Machine

/-- OUTCOME(r, giveup) (R113); a fault enters FAULT (R145). -/
def outcome (r : Consumed) (giveup : Bool) (s : State) : State :=
  match r with
  | .fault code => raiseFault code s
  | .found w => { s with msgHold := w, decState := .emit }
  | .none =>
    if giveup then { s with abandonPulse := true, decState := .idle }
    else { s with decState := .framing }

/-- `r = Consume(d); Outcome(r, giveup)` on the state's decoder (R101, R113). -/
def consumeStep (d : Delta) (giveup : Bool) (s : State) : State :=
  let r := consume d s.dec
  outcome r.1 giveup { s with dec := r.2, nets := { s.nets with scan := scanOf r.1 } }

/-- DEC_IDLE_WAIT (R114): nothing changes. -/
def execDecIdleWait (s : State) : Result := .next s

/-- DEC_START (R115): pop, NEW, and only with FEED_START_DELTA consume the popped delta. -/
def execDecStart (s : State) : Result :=
  match popDq s with
  | none => .next s
  | some (d, s1) =>
    let s2 := { s1 with dec := newAttempt s1.dec, giveupCnt := 0 }
    if s2.params.feedStartDelta then .next (consumeStep d false s2)
    else .next { s2 with decState := .framing }

/-- DEC_WAIT (R117): `us_tick` is the operand. -/
def execDecWait (tick : Bool) (s : State) : Result :=
  .next (if tick then { s with giveupCnt := s.giveupCnt + 1 } else s)

/-- DEC_GIVEUP (R118): the constant 2500 is consumed. -/
def execDecGiveup (s : State) : Result :=
  .next (consumeStep giveupDelta true { s with giveupCnt := 0 })

/-- DEC_CONSUME (R116). -/
def execDecConsume (s : State) : Result :=
  match popDq s with
  | none => .next s
  | some (d, s1) => .next (consumeStep d false { s1 with giveupCnt := 0 })

/-- DEC_EMIT_STALL (R120): nothing changes. -/
def execDecEmitStall (s : State) : Result := .next s

/-- DEC_EMIT (R119): the message is pushed once; with MQ full it would wait (R127). -/
def execDecEmit (s : State) : Result :=
  if s.mqNf then .next { pushMq s.msgHold s with emitPulse := true, decState := .idle } else .next s

/-- DEC_FAULT_HOLD (R121): nothing changes; only RESET leaves FAULT (R153). -/
def execDecFaultHold (s : State) : Result := .next s

end Sys2Proof.Machine
end

