-- ==== Sys2Proof/Machine/EdgeCapture.lean ====
section
/-! DEFINITION. The Edge Capture Stage (43_edge_capture.md): its four rows. In a cycle they run in the order ECS_DROP or
ECS_PUSH, ECS_EDGE, ECS_TICK, so that each reads the values at the start of the cycle (R14) and a reload by ECS_EDGE
stands over ECS_PUSH's clearing (R108; log 6). -/

namespace Sys2Proof.Machine

/-- ECS_EDGE (R107): measure against NOW as the cycle began. -/
def execEcsEdge (s : State) : Result :=
  .next { s with ecs := { s.ecs with
    holdDelta := assembleDelta s.ecs.now s.ecs.prevTs
    prevTs := s.ecs.now
    holdValid := true } }

/-- ECS_DROP (R109): only the pulse. -/
def execEcsDrop (s : State) : Result := .next { s with edgeDropPulse := true }

/-- ECS_PUSH (R108): the held delta enters DQ and HOLD_VALID is cleared; with DQ full it keeps waiting (R127). -/
def execEcsPush (s : State) : Result :=
  if s.dqReady then .next { pushDq s.ecs.holdDelta s with ecs := { s.ecs with holdValid := false } } else .next s

/-- ECS_TICK (R106): NOW + 1 mod 2^64. -/
def execEcsTick (s : State) : Result := .next { s with ecs := { s.ecs with now := s.ecs.now + 1 } }

end Sys2Proof.Machine
end

