-- ==== Sys2Proof/Machine/Queues.lean ====
section
/-! DEFINITION. The queue ends and the read ports (45_queues_and_ports.md section 2). DQ_POP and MQ_PUSH are the
transfers that DEC_START, DEC_CONSUME and DEC_EMIT perform inside themselves (R130, R131), over the same operations. -/

namespace Sys2Proof.Machine

/-- DQ_PUSH (R129) of the offered delta; a full DQ takes nothing. -/
def execDqPush (data : Delta) (s : State) : Result := .next (pushDq data s)

/-- DQ_POP (R130): the head is handed to the Decode Stage; an empty DQ gives nothing (R127). -/
def execDqPop (s : State) : Result :=
  match popDq s with
  | none => .next s
  | some (_, s1) => .next s1

/-- MQ_PUSH (R131): MSG_HOLD enters MQ; a full MQ takes nothing (R127). -/
def execMqPush (s : State) : Result := .next (pushMq s.msgHold s)

/-- MQ_POP (R132): the Consumer takes the head; an empty MQ gives nothing. -/
def execMqPop (s : State) : Result := .next (popMq s)

/-- HIST_RD (R133): `hist_rd_data = MemRead(HIST, hist_rd_addr, 1)`. -/
def execHistRd (addr : BitVec 6) (s : State) : Result :=
  .next { s with out := { s.out with histRdData := s.dec.hist.read addr } }

/-- STATUS_RD (R134): `status = STATUS`. -/
def execStatusRd (s : State) : Result := .next { s with out := { s.out with status := s.statusWord } }

end Sys2Proof.Machine
end

