-- ==== Sys2Proof/Machine/Reset.lean ====
section
/-! DEFINITION. The row RESET (R161). -/

namespace Sys2Proof.Machine

/-- RESET (R161). -/
def execReset (s : State) : Result := .next (resetBlock s)

end Sys2Proof.Machine
end

