-- ==== Sys2Proof/Machine/Dispatch.lean ====
section
/-! DEFINITION. One arm for each operation. -/

namespace Sys2Proof.Machine

def exec (i : Instr) (s : State) : Host.Outcome State Fault Refusal :=
  match i with
  | .clsGlitch => Sys2Proof.Machine.execClsGlitch s
  | .clsRepeat => Sys2Proof.Machine.execClsRepeat s
  | .clsAmbig => Sys2Proof.Machine.execClsAmbig s
  | .clsDouble => Sys2Proof.Machine.execClsDouble s
  | .clsIdle => Sys2Proof.Machine.execClsIdle s
  | .fdMatch5 src dest p0 p1 p2 p3 p4 => Sys2Proof.Machine.execFdMatch5 src dest p0 p1 p2 p3 p4 s
  | .fdMatch4 _ src dest p0 p1 p2 p3 => Sys2Proof.Machine.execFdMatch4 src dest p0 p1 p2 p3 s
  | .fdMatch3 _ _ src dest p0 p1 p2 => Sys2Proof.Machine.execFdMatch3 src dest p0 p1 p2 s
  | .fdMatch2 _ _ _ src dest p0 p1 => Sys2Proof.Machine.execFdMatch2 src dest p0 p1 s
  | .fdMatch1 _ _ _ _ src dest p0 => Sys2Proof.Machine.execFdMatch1 src dest p0 s
  | .fdNone _ _ _ _ _ _ _ _ => Sys2Proof.Machine.execFdNone s
  | .decIdleWait => Sys2Proof.Machine.execDecIdleWait s
  | .decStart => Sys2Proof.Machine.execDecStart s
  | .decWait tick => Sys2Proof.Machine.execDecWait tick s
  | .decGiveup => Sys2Proof.Machine.execDecGiveup s
  | .decConsume => Sys2Proof.Machine.execDecConsume s
  | .decEmitStall => Sys2Proof.Machine.execDecEmitStall s
  | .decEmit => Sys2Proof.Machine.execDecEmit s
  | .decFaultHold => Sys2Proof.Machine.execDecFaultHold s
  | .ecsEdge => Sys2Proof.Machine.execEcsEdge s
  | .ecsDrop => Sys2Proof.Machine.execEcsDrop s
  | .ecsPush => Sys2Proof.Machine.execEcsPush s
  | .ecsTick => Sys2Proof.Machine.execEcsTick s
  | .dqPush data => Sys2Proof.Machine.execDqPush data s
  | .dqPop => Sys2Proof.Machine.execDqPop s
  | .mqPush => Sys2Proof.Machine.execMqPush s
  | .mqPop => Sys2Proof.Machine.execMqPop s
  | .histRd addr => Sys2Proof.Machine.execHistRd addr s
  | .statusRd => Sys2Proof.Machine.execStatusRd s
  | .reset => Sys2Proof.Machine.execReset s

end Sys2Proof.Machine
end

