-- ==== Sys2Proof/Machine/Compose.lean ====
section
/-! DEFINITION. How the operations of one cycle are selected and put together (R137): every condition word is formed
from start-of-cycle state (R62 to R64) and decoded, and the operations found are run one after another in an order in
which none of them reads what an earlier one wrote (R14; log 6). Machine/Parallel.lean writes the same cycle as the
spec does, all updates at once, and an obligation says the two agree. -/

namespace Sys2Proof.Machine

/-- The input ports of the cycle to run: the head of the inputs to come, all low when there is none (log 5). -/
def State.pin (s : State) : PortsIn := s.inputs.headD PortsIn.low

/-- The two read ports, which show start-of-cycle values in every cycle, a reset cycle too (R64, R133, R134, R161; log 15). -/
def readOps (p : PortsIn) : List Instr :=
  selected .portHist (p.histRdAddr.zeroExtend 64) ++ selected .portStatus 0

/-- The operations of the producer of DQ that do not push: an edge dropped because the stage is stalled (R109). -/
def dropOps (p : PortsIn) (s : State) : List Instr :=
  match s.params.deltaSource with
  | .ecs => (selected .ecsedge (ecsedgeWord p s)).filter (· == .ecsDrop)
  | .external => []

/-- The producer of DQ (R137): with ECS the push of the held delta, the capture of an edge and the tick; with EXTERNAL
the offered delta. Never both (R112, R136). -/
def producerOps (p : PortsIn) (s : State) : List Instr :=
  match s.params.deltaSource with
  | .ecs =>
    selected .ecspush (ecspushWord s) ++ (selected .ecsedge (ecsedgeWord p s)).filter (· == .ecsEdge) ++
      selected .tick1 (tick1Word p)
  | .external => selected .hsDqPush (hsDqPushWord p s)

/-- The operations of a cycle with `rst` = 0, in the order pop, decode step, push (R137, R141). -/
def cycleOps (p : PortsIn) (s : State) : List Instr :=
  readOps p ++ selected .hsMqPop (hsMqPopWord p s) ++ dropOps p s ++ selected .deccond (deccondWord p s) ++
    producerOps p s

/-- The operations of a cycle: RESET overrides every operation that writes a register (R64, R152, R161). -/
def plan (p : PortsIn) (s : State) : List Instr :=
  match selected .rst1 (rst1Word p) with
  | [] => cycleOps p s
  | r => readOps p ++ r

/-- The start of a cycle: the ports show start-of-cycle state (R20), the inputs of the cycle are taken from the list,
nothing has been handed over yet, and the three pulses fall unless an operation of this cycle sets them (R137, R138). -/
def beginCycle (s : State) : State :=
  { showPorts s with
    inputs := s.inputs.tail
    nets := Nets.idle
    emitPulse := false
    abandonPulse := false
    edgeDropPulse := false }

/-- The operations run one after another; a stop ends them. -/
def runOps : List Instr → State → Result
  | [], s => .next s
  | i :: is, s =>
    match exec i s with
    | .next s1 => runOps is s1
    | .fault r => .fault r
    | .refused r => .refused r

/-- One clock cycle. -/
def runCycle (s : State) : Result := runOps (plan s.pin s) (beginCycle s)

/-- The decode-stage operations a state can select need no more than these messages to fill MQ: a word MQ may hold. -/
def sampleMsg : MsgWord := packMsg 1 0 0 0 0 0 0 0

/-- A delta of each bin, for `arrange` (the pseudo-operations G, R, A, T, Z of R71). -/
def sampleDelta : Bin → Delta
  | .glitch => 500
  | .repeat1 => 1000
  | .ambig => 1500
  | .double => 2000
  | .idle => 2300

/-- The state framing, with the given delta at the head of DQ and room in the history: its next cycle consumes it. -/
def arrangeConsume (d : Delta) (s : State) : State :=
  { s with decState := .framing, dq := [d],
           dec := if s.dec.histFull then { s.dec with histLen := 0 } else s.dec }

/-- What must stand in the state for the next cycle to select the operation (log 10): its condition word's fields, and
for an operation that runs inside another the state in which that other one runs it. The inputs of the next cycle are
put before those to come by `arrange`. -/
def arrangeState (i : Instr) (s : State) : State :=
  match i with
  | .clsGlitch => arrangeConsume (sampleDelta .glitch) s
  | .clsRepeat => arrangeConsume (sampleDelta .repeat1) s
  | .clsAmbig => arrangeConsume (sampleDelta .ambig) s
  | .clsDouble => arrangeConsume (sampleDelta .double) s
  | .clsIdle => arrangeConsume (sampleDelta .idle) s
  | .fdMatch5 .. | .fdMatch4 .. | .fdMatch3 .. | .fdMatch2 .. | .fdMatch1 .. | .fdNone .. =>
    let s1 := arrangeConsume (sampleDelta .glitch) s
    { s1 with dec := { s1.dec with sr := (encode i).2 } }
  | .decIdleWait => { s with decState := .idle, dq := [] }
  | .decStart => { s with decState := .idle, dq := if s.dq.isEmpty then [0] else s.dq }
  | .decWait tick => { s with decState := .framing, dq := [], giveupCnt := if s.expire tick then 0 else s.giveupCnt }
  | .decGiveup => { s with decState := .framing, dq := [], giveupCnt := BitVec.ofNat 12 (Config.giveupUs - 1) }
  | .decConsume => { s with decState := .framing, dq := if s.dq.isEmpty then [0] else s.dq }
  | .decEmitStall => { s with decState := .emit, mq := (s.mq ++ List.replicate Config.mqDepth sampleMsg).take Config.mqDepth }
  | .decEmit | .mqPush => { s with decState := .emit, mq := s.mq.take (Config.mqDepth - 1) }
  | .decFaultHold => { s with decState := .fault, faultCode := .histOvf }
  | .ecsEdge =>
    { s with params := { s.params with deltaSource := .ecs }, dq := s.dq.take (Config.dqDepth - 1) }
  | .ecsDrop =>
    { s with params := { s.params with deltaSource := .ecs }, ecs := { s.ecs with holdValid := true },
             dq := (s.dq ++ List.replicate Config.dqDepth 0).take Config.dqDepth }
  | .ecsPush =>
    { s with params := { s.params with deltaSource := .ecs }, ecs := { s.ecs with holdValid := true },
             dq := s.dq.take (Config.dqDepth - 1) }
  | .ecsTick => { s with params := { s.params with deltaSource := .ecs } }
  | .dqPush _ =>
    { s with params := { s.params with deltaSource := .external }, dq := s.dq.take (Config.dqDepth - 1) }
  | .dqPop => { s with decState := if s.takesDeltas then s.decState else .idle, dq := if s.dq.isEmpty then [0] else s.dq }
  | .mqPop => { s with mq := if s.mq.isEmpty then [sampleMsg] else s.mq }
  | .histRd _ | .statusRd | .reset => s

/-- The inputs of the next cycle for the operation to be selected: only what its condition word or its operand needs. -/
def arrangeInputs : Instr → PortsIn
  | .decWait tick => { PortsIn.low with usTick := tick }
  | .decGiveup => { PortsIn.low with usTick := true }
  | .ecsEdge | .ecsDrop => { PortsIn.low with edge := true }
  | .ecsTick => { PortsIn.low with usTick := true }
  | .dqPush data => { PortsIn.low with dqWrValid := true, dqWrData := data }
  | .mqPop => { PortsIn.low with mqRdReady := true }
  | .histRd addr => { PortsIn.low with histRdAddr := addr }
  | .reset => { PortsIn.low with rst := true }
  | .clsGlitch | .clsRepeat | .clsAmbig | .clsDouble | .clsIdle => PortsIn.low
  | .fdMatch5 .. | .fdMatch4 .. | .fdMatch3 .. | .fdMatch2 .. | .fdMatch1 .. | .fdNone .. => PortsIn.low
  | .decIdleWait | .decStart | .decConsume | .decEmitStall | .decEmit | .decFaultHold => PortsIn.low
  | .ecsPush | .dqPop | .mqPush | .statusRd => PortsIn.low

/-- The state whose very next cycle runs the operation (log 10). -/
def arrange (i : Instr) (s : State) : State :=
  { arrangeState i s with inputs := arrangeInputs i :: s.inputs }

end Sys2Proof.Machine
end

