-- ==== Sys2Proof/Machine/Step.lean ====
section
/-! DEFINITION. One step of the machine is one clock cycle (R19, R137). -/

namespace Sys2Proof.Machine

/-- One clock cycle (R137). -/
def step (s : State) : Host.Outcome State Fault Refusal := runCycle s

/-- The state whose very next cycle runs the operation of a bare table word. The block fetches nothing (R53): an
operation runs because the state and the inputs of a cycle select it, so this sets what selects it (log 10). -/
def State.withFetchWord (s : State) (nbits w : Nat) : State :=
  match decodeTableWord nbits w with
  | some i => arrange i s
  | none => s

end Sys2Proof.Machine
end

