-- ==== Sys2Proof/Machine/Parallel.lean ====
section
/-! DEFINITION. The cycle as R137 writes it: every register read at the start of the cycle, every update at once. It
shares only `consume` (R101), `newAttempt` (R100), `assembleDelta` (R67) and the value of RESET (R161) with the
operations; the conditions are written out again from R137 and R62. An obligation says that `step` is this cycle. -/

namespace Sys2Proof.Machine

/-- The updates of a consume and of OUTCOME (R113) on start-of-cycle values. -/
def outcomeCase (r : Consumed × Decoder) (giveup : Bool) (s : State) : State :=
  match r.1 with
  | .fault code => { s with dec := r.2, giveupCnt := 0, faultCode := code, decState := .fault }
  | .found w => { s with dec := r.2, giveupCnt := 0, msgHold := w, decState := .emit }
  | .none =>
    if giveup then { s with dec := r.2, giveupCnt := 0, abandonPulse := true, decState := .idle }
    else { s with dec := r.2, giveupCnt := 0, decState := .framing }

/-- What the decode stage's case of R137 decides: the next values of its registers, and whether it pops DQ and pushes MQ. -/
def decodeCase (p : PortsIn) (s : State) : State × Bool × Bool :=
  match s.decState, s.dq with
  | .idle, [] => (s, false, false)
  | .idle, d :: _ =>
    if s.params.feedStartDelta then (outcomeCase (consume d (newAttempt s.dec)) false s, true, false)
    else ({ s with dec := newAttempt s.dec, giveupCnt := 0, decState := .framing }, true, false)
  | .framing, d :: _ => (outcomeCase (consume d s.dec) false s, true, false)
  | .framing, [] =>
    if p.usTick then
      if s.giveupCnt = 2499 then (outcomeCase (consume 2500 s.dec) true s, false, false)
      else ({ s with giveupCnt := s.giveupCnt + 1 }, false, false)
    else (s, false, false)
  | .emit, _ =>
    if s.mq.length < 4 then ({ s with emitPulse := true, decState := .idle }, false, true) else (s, false, false)
  | .fault, _ => (s, false, false)

/-- The producer's case of R137: the next capture registers, whether an edge was dropped, and what is pushed. -/
def producerCase (p : PortsIn) (s : State) : Ecs × Bool × List Delta :=
  match s.params.deltaSource with
  | .ecs =>
    let push := s.ecs.holdValid && decide (s.dq.length < 8)
    let stalled := s.ecs.holdValid && decide (s.dq.length = 8)
    let accept := p.edge && !stalled
    ({ now := if p.usTick then s.ecs.now + 1 else s.ecs.now
       prevTs := if accept then s.ecs.now else s.ecs.prevTs
       holdValid := if accept then true else if push then false else s.ecs.holdValid
       holdDelta := if accept then assembleDelta s.ecs.now s.ecs.prevTs else s.ecs.holdDelta },
     p.edge && stalled, if push then [s.ecs.holdDelta] else [])
  | .external => (s.ecs, false, if p.dqWrValid && decide (s.dq.length < 8) then [p.dqWrData] else [])

/-- `Step` of R137 on the block's registers; the model's own fields are left as they are. -/
def parallelCycle (p : PortsIn) (s : State) : State :=
  if p.rst then resetBlock s
  else
    let pulseless := { s with emitPulse := false, abandonPulse := false, edgeDropPulse := false }
    let (d, popDq, pushMq) := decodeCase p pulseless
    let (ecs, dropped, pushed) := producerCase p s
    let popMq := p.mqRdReady && decide (0 < s.mq.length)
    { d with
      ecs := ecs
      edgeDropPulse := dropped
      dq := (if popDq then s.dq.tail else s.dq) ++ pushed
      mq := (if popMq then s.mq.tail else s.mq) ++ (if pushMq then [s.msgHold] else []) }

/-- A state with the model's own records blanked: what is left are the block's registers and its build parameters. -/
def State.block (s : State) : State :=
  { s with inputs := [], out := PortsOut.low, nets := Nets.idle, freeCtr := 0 }

end Sys2Proof.Machine
end

