-- ==== Sys2Proof/Machine/Trace.lean ====
section
/-! DEFINITION. The trace notation of R71 as an environment: what each line drives into the input ports, cycle by cycle
(log 18). The block itself has no assembler and no program; this is what puts inputs before it. -/

namespace Sys2Proof.Machine

/-- A line of a trace (R71). `tickPairs` and `edgeGap` are the rests of a line in progress. -/
inductive TraceLine where
  /-- D v: offer the delta until it is accepted -/
  | offer (v : Delta)
  /-- W n: n pairs of cycles, the tick in the first of each -/
  | wait (n : Nat)
  /-- the second cycle of a pair of W -/
  | waitGap (n : Nat)
  /-- POP: `mq_rd_ready` until a message is popped -/
  | pop
  /-- RST: one cycle with `rst` -/
  | rst
  /-- EDGE t: pairs of cycles until NOW = t, then one with `edge` -/
  | edgeAt (t : Stamp)
  /-- the second cycle of a pair of EDGE -/
  | edgeGap (t : Stamp)
  deriving DecidableEq, Repr

/-- The lines left once those that take no cycle are passed over. -/
def TraceLine.skip : List TraceLine → List TraceLine
  | .wait 0 :: ls => TraceLine.skip ls
  | ls => ls

/-- One cycle of the environment: what it drives, from start-of-cycle state, and the lines left after the cycle. -/
def TraceLine.drive (s : State) : List TraceLine → PortsIn × List TraceLine
  | [] => (PortsIn.low, [])
  | .offer v :: ls =>
    ({ PortsIn.low with dqWrValid := true, dqWrData := v }, if s.dqReady then ls else .offer v :: ls)
  | .wait 0 :: ls => (PortsIn.low, ls)
  | .wait (n + 1) :: ls => ({ PortsIn.low with usTick := true }, .waitGap n :: ls)
  | .waitGap n :: ls => (PortsIn.low, .wait n :: ls)
  | .pop :: ls => ({ PortsIn.low with mqRdReady := true }, if s.mqValid then ls else .pop :: ls)
  | .rst :: ls => ({ PortsIn.low with rst := true }, ls)
  | .edgeAt t :: ls =>
    if s.ecs.now = t then ({ PortsIn.low with edge := true }, ls)
    else ({ PortsIn.low with usTick := true }, .edgeGap t :: ls)
  | .edgeGap t :: ls => (PortsIn.low, .edgeAt t :: ls)

/-- Cycles of the block under the lines of a trace. -/
def TraceLine.run : Nat → List TraceLine → State → Host.Outcome State Fault Refusal
  | 0, _, s => .next s
  | k + 1, ls, s =>
    let d := TraceLine.drive s (TraceLine.skip ls)
    match step { s with inputs := [d.1] } with
    | .next s1 => TraceLine.run k d.2 s1
    | .fault r => .fault r
    | .refused r => .refused r

/-- The bits of a byte, most significant first (R36). -/
def bitsOf (b : Byte) : List Bool := (List.range 8).map (fun i => b.getLsbD (7 - i))

/-- The reference encoder of 95_test_vectors.md section 2, a test aid: the deltas that shift in the bits, from the
previous bit `p`. -/
def refEncode : Bool → List Bool → List Delta
  | _, [] => []
  | true, true :: bs => 1000 :: refEncode true bs
  | false, false :: bs => 1000 :: refEncode false bs
  | false, true :: bs => 1500 :: refEncode true bs
  | true, [false] => [2300]
  | true, false :: false :: bs => 1500 :: refEncode false bs
  | true, false :: true :: bs => 2000 :: refEncode true bs

/-- FRAME (R71): the D lines of the encoder's deltas for the frame's bytes. -/
def TraceLine.frame (bytes : List Byte) : List TraceLine :=
  (refEncode true (bytes.flatMap bitsOf)).map TraceLine.offer

/-- GIVEUP (R71) is W 2501. -/
def TraceLine.giveup : TraceLine := .wait 2501

end Sys2Proof.Machine
end

