-- ==== Sys2Proof/Machine/Transaction.lean ====
section
/-! DEFINITION. The transaction view TX (R140): the queue events of the block without its cycles. -/

namespace Sys2Proof.Machine

/-- PHASE of TX (R140). -/
inductive Phase where
  | idle
  | framing
  | emit (word : MsgWord)
  | fault
  deriving DecidableEq, Repr

/-- The state of TX (R140). -/
structure Tx where
  phase : Phase
  dec   : Decoder
  dq    : List Delta
  mq    : List MsgWord
  deriving DecidableEq, Repr

/-- OUTCOME (R113) with `state <- EMIT` read as `PHASE <- EMIT(MSG_HOLD)` (R140). -/
def Tx.phaseAfter (r : Consumed) (giveup : Bool) : Phase :=
  match r with
  | .fault _ => .fault
  | .found w => .emit w
  | .none => if giveup then .idle else .framing

/-- The steps of TX (R140); any enabled one may be taken next. There is none for a cycle with `rst` (log 19). -/
inductive Tx.Step (params : Params) : Tx → Tx → Prop where
  | push (t : Tx) (d : Delta) (room : t.dq.length < 8) : Tx.Step params t { t with dq := t.dq ++ [d] }
  | start (t : Tx) (d : Delta) (rest : List Delta) (phase : t.phase = .idle) (head : t.dq = d :: rest)
      (unfed : params.feedStartDelta = false) :
      Tx.Step params t { t with phase := .framing, dec := newAttempt t.dec, dq := rest }
  | startFed (t : Tx) (d : Delta) (rest : List Delta) (phase : t.phase = .idle) (head : t.dq = d :: rest)
      (fed : params.feedStartDelta = true) :
      Tx.Step params t
        { t with phase := Tx.phaseAfter (consume d (newAttempt t.dec)).1 false
                 dec := (consume d (newAttempt t.dec)).2
                 dq := rest }
  | consume (t : Tx) (d : Delta) (rest : List Delta) (phase : t.phase = .framing) (head : t.dq = d :: rest) :
      Tx.Step params t
        { t with phase := Tx.phaseAfter (Machine.consume d t.dec).1 false
                 dec := (Machine.consume d t.dec).2
                 dq := rest }
  | giveup (t : Tx) (phase : t.phase = .framing) (empty : t.dq = []) :
      Tx.Step params t
        { t with phase := Tx.phaseAfter (Machine.consume 2500 t.dec).1 true
                 dec := (Machine.consume 2500 t.dec).2 }
  | emit (t : Tx) (w : MsgWord) (phase : t.phase = .emit w) (room : t.mq.length < 4) :
      Tx.Step params t { t with phase := .idle, mq := t.mq ++ [w] }
  | pop (t : Tx) (m : MsgWord) (rest : List MsgWord) (head : t.mq = m :: rest) :
      Tx.Step params t { t with mq := rest }

/-- Any number of TX steps. -/
inductive Tx.Run (params : Params) : Tx → Tx → Prop where
  | stay (t : Tx) : Tx.Run params t t
  | step (t u v : Tx) (first : Tx.Step params t u) (rest : Tx.Run params u v) : Tx.Run params t v

/-- The TX state that a state of the cycle model stands for (R140: "with the values of the cycle model"). -/
def State.tx (s : State) : Tx :=
  { phase := match s.decState with
      | .idle => .idle
      | .framing => .framing
      | .emit => .emit s.msgHold
      | .fault => .fault
    dec := s.dec
    dq := s.dq
    mq := s.mq }

end Sys2Proof.Machine
end

