-- ==== Sys2Proof/Safety.lean ====
section
/-! DEFINITION. What counts as a sound state of the block, and the premises on the environment, in the terms the
claims use. -/

namespace Sys2Proof.Machine

/-- The invariant of the block: the ranges of its registers and queues, and what each state of the Decode Stage says of
the other registers. -/
structure Inv (s : State) : Prop where
  /-- Count(DQ) ≤ 8 (R135) -/
  dqBound : s.dq.length ≤ 8
  /-- Count(MQ) ≤ 4 (R135) -/
  mqBound : s.mq.length ≤ 4
  /-- HIST_LEN ≤ 64 (R26, R103) -/
  histBound : s.dec.histLen.toNat ≤ 64
  /-- at most two bits a consume (R27, R81): BIT_COUNT never wraps -/
  bitBound : s.dec.bitCount.toNat ≤ 2 * s.dec.histLen.toNat
  /-- while fewer than 64 bits are in, the seed is the top bit of SR (R95) -/
  seed : s.dec.bitCount.toNat ≤ 63 → s.dec.sr.toNat / 2 ^ s.dec.bitCount.toNat = 1
  /-- HIST keeps its canonical form -/
  histWf : s.dec.hist.wf = true
  /-- GIVEUP_CNT ≤ 2499 (R117, R156) -/
  giveupBound : s.giveupCnt.toNat ≤ 2499
  /-- GIVEUP_CNT counts in FRAMING only (R117) -/
  giveupIdle : s.decState ≠ .framing → s.giveupCnt = 0
  /-- FAULT_CODE tells the state FAULT (R145, R148) -/
  faultIff : s.decState = .fault ↔ s.faultCode = .histOvf
  /-- MSG_LEN is never raised (R146) -/
  noMsgLen : s.faultCode ≠ .msgLen
  /-- in FAULT the history is full (R144) -/
  faultFull : s.decState = .fault → s.dec.histLen.toNat = 64
  /-- in FRAMING the last scan found nothing (R99) -/
  framingScan : s.decState = .framing → detect s.dec.sr = .none
  /-- in EMIT the message held is the one the last scan found (R113) -/
  emitScan : s.decState = .emit → detect s.dec.sr = .found s.msgHold
  /-- every message waiting in MQ is a message word the block may push (R59, R69) -/
  mqOk : ∀ w ∈ s.mq, msgOk w = true
  /-- the pulse of a pushed message comes with IDLE (R119) -/
  emitPulseIdle : s.emitPulse = true → s.decState = .idle
  /-- so does the pulse of an abandoned attempt (R113) -/
  abandonPulseIdle : s.abandonPulse = true → s.decState = .idle
  /-- without an Edge Capture Stage its registers stay at reset (R112) -/
  external : s.params.deltaSource = .external → s.ecs = Ecs.reset ∧ s.edgeDropPulse = false

/-- The premise of R21 on a list of inputs: two cycles with `us_tick` are at least TICK_MIN_SPACING = 2 apart. -/
def ticksSpaced : List PortsIn → Bool
  | [] => true
  | [_] => true
  | p :: q :: ps => !(p.usTick && q.usTick) && ticksSpaced (q :: ps)

/-- Edges at least two cycles apart (the premise of R168). -/
def edgesSpaced : List PortsIn → Bool
  | [] => true
  | [_] => true
  | p :: q :: ps => !(p.edge && q.edge) && edgesSpaced (q :: ps)

/-- The number of `us_tick` pulses in a list of inputs (R16). -/
def ticksIn (ps : List PortsIn) : Nat := ps.countP (·.usTick)

/-- Inputs that bring no delta and no reset (the silence of R118). -/
def silent (ps : List PortsIn) : Prop := ∀ p ∈ ps, p.rst = false ∧ p.edge = false ∧ p.dqWrValid = false

/-- The state of a block whose Consumer always pops and whose edges are two cycles apart (R168): no backlog builds up. -/
structure Smooth (s : State) : Prop where
  ecs : s.params.deltaSource = .ecs
  dqShort : s.dq.length ≤ 1
  mqShort : s.mq.length ≤ 1
  /-- a message waits in MQ only in the cycle after its push -/
  mqIdle : s.mq ≠ [] → s.decState = .idle
  /-- a delta waits behind a held one only in the cycle after EMIT -/
  heldIdle : s.ecs.holdValid = true → s.dq ≠ [] → s.decState = .idle

end Sys2Proof.Machine
end

