-- ==== Sys2Proof/Certificates/Slice0/Obligations.lean ====
section
/-! DEFINITION. The statements for the provers. Each says which rule of spec/ it formalises; a statement whose result is
an equation `exec i s = .next t` also says that the operation completes, and `t` is its frame: every field that `t` does
not name is unchanged. -/

section
open Sys2Proof Sys2Proof.Machine

/-! ### Reset and the shape of the state -/

/-- R33: the reset values that the spec gives. (The history's contents after reset are the model's choice, log 1, and
are not stated.) -/
def Obligations.ResetHoldsSpecValues : Prop :=
  State.reset.ecs.now = 0 ∧ State.reset.ecs.prevTs = 0 ∧ State.reset.ecs.holdValid = false ∧
  State.reset.ecs.holdDelta = 0 ∧ State.reset.decState = .idle ∧ State.reset.dec.sr = 1 ∧
  State.reset.dec.bitCount = 0 ∧ State.reset.dec.histLen = 0 ∧ State.reset.giveupCnt = 0 ∧
  State.reset.msgHold = 0 ∧ State.reset.faultCode = .none ∧ State.reset.dq = [] ∧ State.reset.mq = [] ∧
  State.reset.emitPulse = false ∧ State.reset.abandonPulse = false ∧ State.reset.edgeDropPulse = false ∧
  State.reset.statusWord = 0

/-- The invariant holds right after reset. -/
def Obligations.ResetMeetsInvariant : Prop := Inv State.reset

/-- R161, R153: RESET writes every register but HIST, from every state (FAULT among them). -/
def Obligations.ResetRowWritesResetValues : Prop :=
  ∀ s : State,
    exec .reset s = .next
      { s with
        ecs := { now := 0, prevTs := 0, holdValid := false, holdDelta := 0 }
        dq := []
        mq := []
        decState := .idle
        dec := { sr := 1, bitCount := 0, histLen := 0, hist := s.dec.hist }
        giveupCnt := 0
        msgHold := 0
        faultCode := .none
        emitPulse := false
        abandonPulse := false
        edgeDropPulse := false }

/-- R161, R152: in a cycle with `rst` only RESET happens to the block's registers, whatever else the inputs and the state ask for. -/
def Obligations.ResetOverridesTheCycle : Prop :=
  ∀ s : State, s.pin.rst = true →
    ∃ s', step s = .next s' ∧ s'.block = (resetBlock s).block ∧ s'.inputs = s.inputs.tail

/-- R60: DEC_STATE's four codes are all used and FAULT_CODE 0b11 is refused; each other code names one value. -/
def Obligations.StateAndFaultCodesAreExact : Prop :=
  decStateCode .idle = 0b00 ∧ decStateCode .framing = 0b01 ∧ decStateCode .emit = 0b10 ∧ decStateCode .fault = 0b11 ∧
  (∀ c : BitVec 2, decStateCode (decStateOf c) = c) ∧
  faultCodeBits .none = 0b00 ∧ faultCodeBits .histOvf = 0b01 ∧ faultCodeBits .msgLen = 0b10 ∧
  (∀ c : BitVec 2, faultCodeOf c = none ↔ c = 0b11) ∧ (∀ f : FaultCode, faultCodeOf (faultCodeBits f) = some f)

/-- R61: every field of the STATUS word stands at its bits, and bits 31:27 are 0. -/
def Obligations.StatusFieldsStandAtTheirBits : Prop :=
  ∀ s : State, s.dq.length ≤ 8 → s.mq.length ≤ 4 →
    s.statusWord.extractLsb' 0 2 = decStateCode s.decState ∧
    (s.statusWord.extractLsb' 2 4).toNat = s.dq.length ∧
    (s.statusWord.extractLsb' 6 3).toNat = s.mq.length ∧
    s.statusWord.getLsbD 9 = s.ecs.holdValid ∧
    s.statusWord.extractLsb' 10 2 = faultCodeBits s.faultCode ∧
    s.statusWord.extractLsb' 12 7 = s.dec.histLen ∧
    s.statusWord.extractLsb' 19 8 = s.dec.bitCount ∧
    s.statusWord.extractLsb' 27 5 = 0

/-! ### Encoding -/

/-- Words written out from the tables of 30_encoding.md, at least one of each format and of each queue end and port,
decode to their rows; a reserved bin code and a handshake without a transfer select nothing (R56, R57, R62, R63, R64,
R68). That each queue end and each port is a space of its own is log 7, and where `dq_wr_data` and `hist_rd_addr` stand in
their words is log 8: both are the model's choice. -/
def Obligations.TableWordsDecodeToTheirRows : Prop :=
  decode .bin3 0b001 = .ok .clsRepeat ∧ decode .bin3 0b100 = .ok .clsIdle ∧ decode .bin3 0b110 = .error .reservedBin ∧
  decode .sr64 0xE511223344556677 = .ok (.fdMatch5 0x11 0x22 0x33 0x44 0x55 0x66 0x77) ∧
  decode .sr64 0x00000001E100082A = .ok (.fdMatch1 0 0 0 1 0x00 0x08 0x2A) ∧
  decode .deccond 0b010100 = .ok .decGiveup ∧ decode .deccond 0b100010 = .ok .decEmit ∧
  decode .ecsedge 0b11 = .ok .ecsDrop ∧ decode .ecspush 0b10 = .ok .ecsPush ∧ decode .tick1 0b1 = .ok .ecsTick ∧
  decode .hsDqPush 0xFA3 = .ok (.dqPush 1000) ∧ decode .hsDqPop 0b11 = .ok .dqPop ∧
  decode .hsDqPop 0b10 = .error .noRow ∧ decode .hsMqPush 0b11 = .ok .mqPush ∧ decode .hsMqPop 0b11 = .ok .mqPop ∧
  decode .portHist 0b011010 = .ok (.histRd 26) ∧ decode .portStatus 0 = .ok .statusRd ∧ decode .rst1 0b1 = .ok .reset

/-- Decoding the encoding of a well-formed operation gives it back, every operand at every value. -/
def Obligations.DecodeOfEncodeIsTheOperation : Prop :=
  ∀ i : Instr, i.wf = true → decode (encode i).1 (encode i).2 = .ok i

/-- Every shift register decodes to a well-formed frame-detector row, and encoding that row gives the register back:
no bit of SR is dropped. -/
def Obligations.EveryShiftRegisterReencodes : Prop :=
  ∀ sr : ShiftReg, ∃ i, decode .sr64 sr = .ok i ∧ i.wf = true ∧ encode i = (.sr64, sr)

/-- R57: the row that SR selects, by its bytes: `Byte(SR, 5 - L) == 0xE0 | L`, the longest frame first. -/
def Obligations.ShiftRegisterRowByMarker : Prop :=
  ∀ sr : ShiftReg,
    let b := byteAt sr
    decode .sr64 sr = .ok
      (if b 0 = 0xE5 then .fdMatch5 (b 1) (b 2) (b 3) (b 4) (b 5) (b 6) (b 7)
       else if b 1 = 0xE4 then .fdMatch4 (b 0) (b 2) (b 3) (b 4) (b 5) (b 6) (b 7)
       else if b 2 = 0xE3 then .fdMatch3 (b 0) (b 1) (b 3) (b 4) (b 5) (b 6) (b 7)
       else if b 3 = 0xE2 then .fdMatch2 (b 0) (b 1) (b 2) (b 4) (b 5) (b 6) (b 7)
       else if b 4 = 0xE1 then .fdMatch1 (b 0) (b 1) (b 2) (b 3) (b 5) (b 6) (b 7)
       else .fdNone (b 0) (b 1) (b 2) (b 3) (b 4) (b 5) (b 6) (b 7))

/-- R62: of the eight DECCOND rows of the table, given as mask, match and operation, exactly one matches each of the 64
values, and the row that matches is the operation that the decoder gives; DEC_WAIT has TICK as its operand (R117). -/
def Obligations.DeccondRowsPartition : Prop :=
  ∀ w : BitVec 6,
    let rows : List (BitVec 6 × BitVec 6 × Instr) :=
      [(0b111000, 0b000000, .decIdleWait), (0b111000, 0b001000, .decStart),
       (0b111100, 0b010000, .decWait (w.getLsbD 0)), (0b111100, 0b010100, .decGiveup),
       (0b111000, 0b011000, .decConsume), (0b110010, 0b100000, .decEmitStall),
       (0b110010, 0b100010, .decEmit), (0b110000, 0b110000, .decFaultHold)]
    rows.countP (fun r => w &&& r.1 == r.2.1) = 1 ∧
    ∀ r ∈ rows, w &&& r.1 = r.2.1 → decode .deccond (w.zeroExtend 64) = .ok r.2.2

/-! ### Bit recovery -/

/-- R72: the five ranges, each closed at its upper end. -/
def Obligations.ClassifierRanges : Prop :=
  ∀ d : Delta,
    (classify d = .glitch ↔ d.toNat ≤ 750) ∧
    (classify d = .repeat1 ↔ 750 < d.toNat ∧ d.toNat ≤ 1250) ∧
    (classify d = .ambig ↔ 1250 < d.toNat ∧ d.toNat ≤ 1750) ∧
    (classify d = .double ↔ 1750 < d.toNat ∧ d.toNat ≤ 2250) ∧
    (classify d = .idle ↔ 2250 < d.toNat)

/-- R75: a glitch recovers nothing. -/
def Obligations.GlitchRecoversNothing : Prop :=
  ∀ (d : Delta) (s : State), d.toNat ≤ 750 → recover d s.dec = s.dec ∧ exec .clsGlitch s = .next s

/-- R76: REPEAT shifts in SR[0] and counts one bit. -/
def Obligations.RepeatShiftsInLastBit : Prop :=
  ∀ (d : Delta) (s : State), 750 < d.toNat → d.toNat ≤ 1250 →
    ∃ c : Decoder, recover d s.dec = c ∧ exec .clsRepeat s = .next { s with dec := c } ∧
      c = { s.dec with sr := c.sr, bitCount := s.dec.bitCount + 1 } ∧
      c.sr.getLsbD 0 = s.dec.sr.getLsbD 0 ∧ ∀ i < 63, c.sr.getLsbD (i + 1) = s.dec.sr.getLsbD i

/-- R77: AMBIG shifts in 00 after a 1, else a 1; the last bit always inverts. -/
def Obligations.AmbigInvertsLastBit : Prop :=
  ∀ (d : Delta) (s : State), 1250 < d.toNat → d.toNat ≤ 1750 →
    ∃ c : Decoder, recover d s.dec = c ∧ exec .clsAmbig s = .next { s with dec := c } ∧
      c.hist = s.dec.hist ∧ c.histLen = s.dec.histLen ∧ c.lastBit = !s.dec.lastBit ∧
      (s.dec.lastBit = true →
        c.bitCount = s.dec.bitCount + 2 ∧ c.sr.getLsbD 1 = false ∧ ∀ i < 62, c.sr.getLsbD (i + 2) = s.dec.sr.getLsbD i) ∧
      (s.dec.lastBit = false →
        c.bitCount = s.dec.bitCount + 1 ∧ ∀ i < 63, c.sr.getLsbD (i + 1) = s.dec.sr.getLsbD i)

/-- R78: DOUBLE shifts in 0 then 1, whatever the last bit. -/
def Obligations.DoubleShiftsInZeroOne : Prop :=
  ∀ (d : Delta) (s : State), 1750 < d.toNat → d.toNat ≤ 2250 →
    ∃ c : Decoder, recover d s.dec = c ∧ exec .clsDouble s = .next { s with dec := c } ∧
      c = { s.dec with sr := c.sr, bitCount := s.dec.bitCount + 2 } ∧
      c.sr.getLsbD 0 = true ∧ c.sr.getLsbD 1 = false ∧ ∀ i < 62, c.sr.getLsbD (i + 2) = s.dec.sr.getLsbD i

/-- R79: IDLE shifts in one 0, whatever the last bit. -/
def Obligations.IdleShiftsInZero : Prop :=
  ∀ (d : Delta) (s : State), 2250 < d.toNat →
    ∃ c : Decoder, recover d s.dec = c ∧ exec .clsIdle s = .next { s with dec := c } ∧
      c = { s.dec with sr := c.sr, bitCount := s.dec.bitCount + 1 } ∧
      c.sr.getLsbD 0 = false ∧ ∀ i < 63, c.sr.getLsbD (i + 1) = s.dec.sr.getLsbD i

/-- R56, R74: the bin code of a delta selects the row whose meaning is the recovery of that delta. -/
def Obligations.BinCodeSelectsTheRecovery : Prop :=
  ∀ (d : Delta) (s : State), ∃ i,
    decode .bin3 ((binCode (classify d)).zeroExtend 64) = .ok i ∧ exec i s = .next { s with dec := recover d s.dec }

/-- R66, R81: over any sequence of deltas SR takes in exactly the bits of their bins, oldest first, one at a time at bit 0. -/
def Obligations.RecoveryShiftsInTheBits : Prop :=
  ∀ (ds : List Delta) (c : Decoder),
    (ds.foldl (fun c d => recover d c) c).sr = (recoveredBits c.lastBit ds).foldl shiftIn c.sr ∧
    (ds.foldl (fun c d => recover d c) c).bitCount = c.bitCount + BitVec.ofNat 8 (recoveredBits c.lastBit ds).length

/-! ### Frame detection -/

/-- R88 to R93: what each frame-detector row returns, and that it writes no register (R87). -/
def Obligations.FrameRowsReturnTheirMessage : Prop :=
  ∀ (s : State) (b0 b1 b2 b3 b4 b5 b6 b7 src dest p0 p1 p2 p3 p4 : Byte),
    exec (.fdMatch5 src dest p0 p1 p2 p3 p4) s =
      .next { s with nets := { s.nets with scan := .found (ofBytes 0x05 src dest p0 p1 p2 p3 p4) } } ∧
    exec (.fdMatch4 b0 src dest p0 p1 p2 p3) s =
      .next { s with nets := { s.nets with scan := .found (ofBytes 0x04 src dest p0 p1 p2 p3 0) } } ∧
    exec (.fdMatch3 b0 b1 src dest p0 p1 p2) s =
      .next { s with nets := { s.nets with scan := .found (ofBytes 0x03 src dest p0 p1 p2 0 0) } } ∧
    exec (.fdMatch2 b0 b1 b2 src dest p0 p1) s =
      .next { s with nets :=
        { s.nets with scan := .found (ofBytes 0x02 src dest p0 p1 0 0 0) } } ∧
    exec (.fdMatch1 b0 b1 b2 b3 src dest p0) s =
      .next { s with nets :=
        { s.nets with scan := .found (ofBytes 0x01 src dest p0 0 0 0 0) } } ∧
    exec (.fdNone b0 b1 b2 b3 b4 b5 b6 b7) s = .next { s with nets := { s.nets with scan := .none } }

/-- R85: the row that SR selects returns what `Detect(SR)` gives. -/
def Obligations.SelectedRowReturnsTheScan : Prop :=
  ∀ (sr : ShiftReg) (s : State), ∃ i,
    decode .sr64 sr = .ok i ∧ exec i s = .next { s with nets := { s.nets with scan := detect sr } }

/-- R93: no message exactly when no marker stands at its offset. -/
def Obligations.NoMessageWithoutMarker : Prop :=
  ∀ sr : ShiftReg, detect sr = .none ↔ ∀ len, 1 ≤ len → len ≤ 5 → byteAt sr (5 - len) ≠ 0xE0#8 ||| BitVec.ofNat 8 len

/-- The fields of a detected message: the length is that of the longest frame whose marker matches (R57, R85), the source
and destination are the next two bytes and the payload the trailing bytes (R65), in the word of R59 and R86, whose payload
bytes beyond the length and reserved bits are 0. -/
def Obligations.DetectedMessageFields : Prop :=
  ∀ (sr : ShiftReg) (w : MsgWord), detect sr = .found w →
    ∃ len, 1 ≤ len ∧ len ≤ 5 ∧ (msgLen w).toNat = len ∧ byteAt sr (5 - len) = 0xE0#8 ||| BitVec.ofNat 8 len ∧
      (∀ longer, len < longer → longer ≤ 5 → byteAt sr (5 - longer) ≠ 0xE0#8 ||| BitVec.ofNat 8 longer) ∧
      typeOf (msgSrc w) = typeOf (byteAt sr (6 - len)) ∧ addrOf (msgSrc w) = addrOf (byteAt sr (6 - len)) ∧
      typeOf (msgDest w) = typeOf (byteAt sr (7 - len)) ∧ addrOf (msgDest w) = addrOf (byteAt sr (7 - len)) ∧
      (∀ j < len, msgPayload w j = byteAt sr (8 - len + j)) ∧
      (∀ j, len ≤ j → j < 5 → msgPayload w j = 0) ∧ msgReserved w = 0

/-- R146: no consume raises MSG_LEN. -/
def Obligations.MsgLenIsNeverRaised : Prop :=
  ∀ (d : Delta) (c : Decoder), (consume d c).1 ≠ .fault .msgLen

/-! ### The Comms Decoder -/

/-- R101: a consume with room in the history does one recovery, scans the new SR, and appends the delta; every other
entry of HIST reads as before. -/
def Obligations.ConsumeRecoversScansAppends : Prop :=
  ∀ (d : Delta) (c : Decoder), c.histLen.toNat < 64 → c.hist.wf = true →
    (consume d c).2.sr = (recover d c).sr ∧ (consume d c).2.bitCount = (recover d c).bitCount ∧
    (consume d c).2.histLen.toNat = c.histLen.toNat + 1 ∧
    (consume d c).2.hist.read (BitVec.ofNat 6 c.histLen.toNat) = d ∧
    (∀ a : BitVec 6, a.toNat ≠ c.histLen.toNat → (consume d c).2.hist.read a = c.hist.read a) ∧
    (consume d c).2.hist.wf = true ∧
    ((consume d c).1 = .none ↔ detect (recover d c).sr = .none) ∧
    ∀ w, (consume d c).1 = .found w ↔ detect (recover d c).sr = .found w

/-- R82: any number of glitches up to 64 leaves a fresh attempt without a bit and without a message. -/
def Obligations.GlitchesRecoverNoBits : Prop :=
  ∀ (ds : List Delta) (c : Decoder), (∀ d ∈ ds, d.toNat ≤ 750) → ds.length ≤ 64 →
    (attempt ds (newAttempt c)).1 = .none ∧ (attempt ds (newAttempt c)).2.sr = 1 ∧
    (attempt ds (newAttempt c)).2.bitCount = 0 ∧ (attempt ds (newAttempt c)).2.histLen.toNat = ds.length

/-- R26, R104, R103, R101: the history of an attempt is its deltas in consume order, whatever the attempt has answered, and
the entries beyond HIST_LEN are those of before; an attempt that has answered nothing has consumed at most 64 deltas, and
after 64 of them the next one faults with HIST_OVF and changes nothing. The premise on HIST is the canonical form of the
invariant. -/
def Obligations.AttemptConsumesAtMostSixtyFour : Prop :=
  ∀ (ds : List Delta) (c : Decoder),
    let r := attempt ds (newAttempt c)
    (c.hist.wf = true → ∀ k < r.2.histLen.toNat, ds[k]? = some (r.2.hist.read (BitVec.ofNat 6 k))) ∧
    (∀ a : BitVec 6, r.2.histLen.toNat ≤ a.toNat → r.2.hist.read a = c.hist.read a) ∧
    (r.1 = .none →
      ds.length ≤ 64 ∧ r.2.histLen.toNat = ds.length ∧
      (ds.length = 64 → ∀ d, attempt (ds ++ [d]) (newAttempt c) = (.fault .histOvf, r.2)))

/-- R102: from the seed, n deltas of 1000 shift in ones only, none of them matches, and the 65th faults. -/
def Obligations.RepeatsOverflowTheHistory : Prop :=
  ∀ c : Decoder,
    (∀ n ≤ 64, (attempt (List.replicate n 1000) (newAttempt c)).1 = .none ∧
      (attempt (List.replicate n 1000) (newAttempt c)).2.sr.toNat = 2 ^ min (n + 1) 64 - 1) ∧
    (attempt (List.replicate 65 1000) (newAttempt c)).1 = .fault .histOvf

/-- R95: fewer than 16 consumes never match. -/
def Obligations.NoMatchBeforeSixteenConsumes : Prop :=
  ∀ (ds : List Delta) (c : Decoder), ds.length < 16 → (attempt ds (newAttempt c)).1 = .none

/-- R142, R100: how an attempt comes out depends on its deltas alone: nothing of the decoder before NEW reaches it. -/
def Obligations.AttemptForgetsTheOldDecoder : Prop :=
  ∀ (ds : List Delta) (c1 c2 : Decoder),
    (attempt ds (newAttempt c1)).1 = (attempt ds (newAttempt c2)).1 ∧
    (attempt ds (newAttempt c1)).2.sr = (attempt ds (newAttempt c2)).2.sr ∧
    (attempt ds (newAttempt c1)).2.bitCount = (attempt ds (newAttempt c2)).2.bitCount ∧
    (attempt ds (newAttempt c1)).2.histLen = (attempt ds (newAttempt c2)).2.histLen

/-- R98: deltas without a glitch that shift in exactly the bits of a frame, in a fresh attempt, give that frame's message
at the last delta exactly when no scan before it matched. -/
def Obligations.FramesRoundTripUnlessMisread : Prop :=
  ∀ (ds : List Delta) (c : Decoder) (src dest : Byte) (payload : List Byte),
    1 ≤ payload.length → payload.length ≤ 5 → (∀ d ∈ ds, classify d ≠ .glitch) →
    recoveredBits true ds = (markerOf (BitVec.ofNat 8 payload.length) :: src :: dest :: payload).flatMap bitsOf →
    (((attempt ds (newAttempt c)).1 = .found (frameWord src dest payload) ∧
        (attempt ds (newAttempt c)).2.histLen.toNat = ds.length) ↔
      ∀ k < ds.length, (attempt (ds.take k) (newAttempt c)).1 = .none)

/-- R98: with one or two payload bytes no earlier scan can match, so every such frame comes through. -/
def Obligations.ShortFramesRoundTrip : Prop :=
  ∀ (ds : List Delta) (c : Decoder) (src dest : Byte) (payload : List Byte),
    1 ≤ payload.length → payload.length ≤ 2 → (∀ d ∈ ds, classify d ≠ .glitch) →
    recoveredBits true ds = (markerOf (BitVec.ofNat 8 payload.length) :: src :: dest :: payload).flatMap bitsOf →
    (attempt ds (newAttempt c)).1 = .found (frameWord src dest payload) ∧
    (attempt ds (newAttempt c)).2.histLen.toNat = ds.length

/-! ### The Decode Stage -/

/-- R62, R122: in every cycle exactly one decode-stage operation is selected, by the condition column of the table. -/
def Obligations.DecodeRowByCondition : Prop :=
  ∀ (p : PortsIn) (s : State),
    selected .deccond (deccondWord p s) =
      [match s.decState with
       | .idle => if s.dq = [] then .decIdleWait else .decStart
       | .framing =>
         if s.dq ≠ [] then .decConsume
         else if p.usTick = true ∧ s.giveupCnt.toNat = 2499 then .decGiveup else .decWait p.usTick
       | .emit => if s.mq.length < 4 then .decEmit else .decEmitStall
       | .fault => .decFaultHold]

/-- R114, R120, R121: the three waiting rows change nothing. -/
def Obligations.WaitingRowsChangeNothing : Prop :=
  ∀ s : State, exec .decIdleWait s = .next s ∧ exec .decEmitStall s = .next s ∧ exec .decFaultHold s = .next s

/-- R115, R100, with FEED_START_DELTA = false: the start delta is popped and discarded and a fresh attempt begins; the
entries of HIST are kept. -/
def Obligations.StartDiscardsTheStartDelta : Prop :=
  ∀ (s : State) (d : Delta) (rest : List Delta),
    s.decState = .idle → s.dq = d :: rest → s.params.feedStartDelta = false →
    exec .decStart s = .next
      { s with
        dq := rest
        dec := { s.dec with sr := 1, bitCount := 0, histLen := 0 }
        giveupCnt := 0
        decState := .framing
        nets := { s.nets with popped := some d } }

/-- R115 with FEED_START_DELTA = true: the start delta is consumed on the fresh decoder, and can neither fault nor match. -/
def Obligations.StartFeedsTheStartDelta : Prop :=
  ∀ (s : State) (d : Delta) (rest : List Delta),
    s.decState = .idle → s.dq = d :: rest → s.params.feedStartDelta = true →
    exec .decStart s = .next
      { s with
        dq := rest
        dec := appendHist d (recover d { s.dec with sr := 1, bitCount := 0, histLen := 0 })
        giveupCnt := 0
        decState := .framing
        nets := { s.nets with popped := some d, scan := .none } }

/-- R116, R113 with room in the history: the head of DQ is consumed; a match is held for MQ and the stage goes to EMIT,
else it stays in FRAMING. -/
def Obligations.ConsumeRowOutcome : Prop :=
  ∀ (s : State) (d : Delta) (rest : List Delta),
    s.decState = .framing → s.dq = d :: rest → s.dec.histLen.toNat < 64 →
    let c := recover d s.dec
    let t := { s with
      dq := rest
      giveupCnt := 0
      dec := appendHist d c
      nets := { s.nets with popped := some d, scan := detect c.sr } }
    (detect c.sr = .none → exec .decConsume s = .next { t with decState := .framing }) ∧
    (∀ w, detect c.sr = .found w → exec .decConsume s = .next { t with decState := .emit, msgHold := w }) ∧
    ∃ t', exec .decConsume s = .next t'

/-- R145, R144: the 65th consume of an attempt enters FAULT with code HIST_OVF, in DEC_CONSUME with its delta popped and
in DEC_GIVEUP; SR, BIT_COUNT, HIST_LEN, HIST and MSG_HOLD are not written. -/
def Obligations.HistoryOverflowEntersFault : Prop :=
  ∀ s : State, s.decState = .framing → s.dec.histLen.toNat = 64 →
    (∀ d rest, s.dq = d :: rest →
      exec .decConsume s = .next
        { s with
          dq := rest
          giveupCnt := 0
          faultCode := .histOvf
          decState := .fault
          nets := { s.nets with popped := some d, scan := .none } }) ∧
    exec .decGiveup s = .next
      { s with
        giveupCnt := 0
        faultCode := .histOvf
        decState := .fault
        nets := { s.nets with scan := .none } }

/-- R117: DEC_WAIT counts a tick of a waiting cycle, and nothing without one. (At 2499 the tick selects DEC_GIVEUP, so
the count stays below 2500.) -/
def Obligations.WaitCountsTicks : Prop :=
  ∀ s : State,
    (s.giveupCnt.toNat < 2499 →
      ∃ n : BitVec 12, n.toNat = s.giveupCnt.toNat + 1 ∧ n.toNat < 2500 ∧
        exec (.decWait true) s = .next { s with giveupCnt := n }) ∧
    exec (.decWait false) s = .next s

/-- R118, R113, R80: the give-up consumes 2500, an IDLE delta that shifts in one 0; a match is emitted and not abandoned,
else the attempt is abandoned with its pulse. -/
def Obligations.GiveupRowOutcome : Prop :=
  ∀ s : State, s.decState = .framing → s.dec.histLen.toNat < 64 →
    let c := { s.dec with sr := s.dec.sr <<< 1, bitCount := s.dec.bitCount + 1 }
    let t := { s with giveupCnt := 0, dec := appendHist 2500 c, nets := { s.nets with scan := detect c.sr } }
    (detect c.sr = .none → exec .decGiveup s = .next { t with decState := .idle, abandonPulse := true }) ∧
    (∀ w, detect c.sr = .found w → exec .decGiveup s = .next { t with decState := .emit, msgHold := w }) ∧
    ∃ t', exec .decGiveup s = .next t'

/-- R119: DEC_EMIT pushes the held message once, raises its pulse and goes to IDLE. -/
def Obligations.EmitPushesTheMessage : Prop :=
  ∀ s : State, s.decState = .emit → s.mq.length < 4 →
    exec .decEmit s = .next { s with mq := s.mq ++ [s.msgHold], emitPulse := true, decState := .idle }

/-! ### Edge capture, queues and ports -/

/-- R107, R67: an accepted edge measures the ticks since the last accepted edge, modulo 2^64 and saturated to 32 bits. -/
def Obligations.EdgeMeasuresTheDelta : Prop :=
  ∀ s : State, ∃ d : Delta,
    exec .ecsEdge s = .next { s with ecs := { s.ecs with holdDelta := d, prevTs := s.ecs.now, holdValid := true } } ∧
    d.toNat = min ((s.ecs.now.toNat + (2 ^ 64 - s.ecs.prevTs.toNat)) % 2 ^ 64) (2 ^ 32 - 1)

/-- R108, R109, R106: the held delta enters DQ at its tail and HOLD_VALID falls; a dropped edge only pulses; a tick adds
one to NOW modulo 2^64. -/
def Obligations.CaptureRowsPushDropAndTick : Prop :=
  ∀ s : State,
    (s.ecs.holdValid = true → s.dq.length < 8 →
      exec .ecsPush s = .next { s with dq := s.dq ++ [s.ecs.holdDelta], ecs := { s.ecs with holdValid := false } }) ∧
    exec .ecsDrop s = .next { s with edgeDropPulse := true } ∧
    ∃ n : Stamp, n.toNat = (s.ecs.now.toNat + 1) % 2 ^ 64 ∧
      exec .ecsTick s = .next { s with ecs := { s.ecs with now := n } }

/-- R129 to R132, R126: each queue transfer moves one whole element: pushes append at the tail, pops remove the head and
hand it over. -/
def Obligations.QueueTransfersMoveOneElement : Prop :=
  ∀ s : State,
    (∀ v, s.dq.length < 8 → exec (.dqPush v) s = .next { s with dq := s.dq ++ [v] }) ∧
    (∀ d rest, s.dq = d :: rest →
      exec .dqPop s = .next { s with dq := rest, nets := { s.nets with popped := some d } }) ∧
    (s.mq.length < 4 → exec .mqPush s = .next { s with mq := s.mq ++ [s.msgHold] }) ∧
    (∀ m rest, s.mq = m :: rest →
      exec .mqPop s = .next { s with mq := rest, nets := { s.nets with taken := some m } })

/-- R127: a queue end that cannot transfer waits: nothing is dropped and nothing is overwritten. -/
def Obligations.BlockedTransfersChangeNothing : Prop :=
  ∀ s : State,
    (8 ≤ s.dq.length → (∀ v, exec (.dqPush v) s = .next s) ∧ exec .ecsPush s = .next s) ∧
    (s.dq = [] → exec .dqPop s = .next s) ∧
    (4 ≤ s.mq.length → exec .mqPush s = .next s) ∧
    (s.mq = [] → exec .mqPop s = .next s)

/-- R133, R134: the two reads show the entry and the STATUS word, and change no register. -/
def Obligations.ReadsShowAndChangeNothing : Prop :=
  ∀ (s : State) (a : BitVec 6),
    exec (.histRd a) s = .next { s with out := { s.out with histRdData := s.dec.hist.read a } } ∧
    exec .statusRd s = .next { s with out := { s.out with status := s.statusWord } }

/-- R20, R50, R129, R132, R148, R161: what every output port shows in a cycle, a reset cycle too, is a function of
start-of-cycle state and of `hist_rd_addr`. (While MQ is empty `mq_rd_data` is a free value, log 2.) -/
def Obligations.OutputsShowStartOfCycle : Prop :=
  ∀ s : State, ∃ s', step s = .next s' ∧
    s'.out.dqWrReady = decide (s.dq.length < 8) ∧ s'.out.mqRdValid = decide (0 < s.mq.length) ∧
    (∀ m rest, s.mq = m :: rest → s'.out.mqRdData = m) ∧
    s'.out.histRdData = s.dec.hist.read s.pin.histRdAddr ∧ s'.out.status = s.statusWord ∧
    s'.out.fault = decide (s.decState = .fault) ∧ s'.out.emitPulse = s.emitPulse ∧
    s'.out.abandonPulse = s.abandonPulse ∧ s'.out.edgeDropPulse = s.edgeDropPulse

/-! ### The cycle -/

/-- One step is the operations its condition words select, each run by `exec`, from the start of the cycle: whatever
operation stands in the plan is run, after those before it and before those after it. That they run one after another,
each on what those before it left, is the model's (log 6, DEDUCED): R14 and R137 make every update at once, which
`StepIsTheParallelCycle` states. -/
def Obligations.StepRunsTheSelectedOperations : Prop :=
  ∀ (s : State) (before after : List Instr) (i : Instr) (s1 : State),
    plan s.pin s = before ++ i :: after → runOps before (beginCycle s) = .next s1 →
    step s =
      match exec i s1 with
      | .next s2 => runOps after s2
      | .fault r => .fault r
      | .refused r => .refused r

/-- Which operations a cycle runs: each by its condition on start-of-cycle state and inputs (R62, R63, R64, R112), RESET
alone of those that write a register with `rst` (R161); the decode-stage row is that of `DecodeRowByCondition`. Two parts
are the model's: the order of the list (log 6, DEDUCED) and that the two reads run in a reset cycle too (log 15,
DEDUCED). -/
def Obligations.CycleOperationsByCondition : Prop :=
  ∀ (p : PortsIn) (s : State),
    (p.rst = true → plan p s = [.histRd p.histRdAddr, .statusRd, .reset]) ∧
    (p.rst = false → plan p s =
      [.histRd p.histRdAddr, .statusRd] ++
      (if p.mqRdReady = true ∧ s.mq ≠ [] then [.mqPop] else []) ++
      (if s.params.deltaSource = .ecs ∧ p.edge = true ∧ s.ecs.holdValid = true ∧ s.dq.length = 8 then [.ecsDrop] else []) ++
      selected .deccond (deccondWord p s) ++
      match s.params.deltaSource with
      | .ecs =>
        (if s.ecs.holdValid = true ∧ s.dq.length ≠ 8 then [.ecsPush] else []) ++
        (if p.edge = true ∧ ¬(s.ecs.holdValid = true ∧ s.dq.length = 8) then [.ecsEdge] else []) ++
        (if p.usTick = true then [.ecsTick] else [])
      | .external => if p.dqWrValid = true ∧ s.dq.length < 8 then [.dqPush p.dqWrData] else [])

/-- The machine never stops: every operation and every cycle answers a next state. This is the model's claim of log 13
(DEDUCED); the spec says that a cycle's next state is unique (R139), that the decode stage never lacks one (R122), and that
HIST_OVF enters FAULT (R145), in which the block goes on (R147). For an operation on a state that does not select it the
first clause is the model's too (log 9, DEDUCED). -/
def Obligations.EveryCycleHasANextState : Prop :=
  (∀ (i : Instr) (s : State), ∃ t, exec i s = .next t) ∧ ∀ s : State, ∃ s', step s = .next s'

/-- R137, R14: a step is the cycle as R137 writes it, every register read at the start and every update at once. The
premise is the queue bound of the invariant. -/
def Obligations.StepIsTheParallelCycle : Prop :=
  ∀ s : State, s.dq.length ≤ 8 →
    ∃ s', step s = .next s' ∧ s'.block = (parallelCycle s.pin s).block ∧ s'.inputs = s.inputs.tail

/-- R128, R48: one push and one pop a cycle for each queue, both decided on the start-of-cycle counts. -/
def Obligations.QueuesUpdateOncePerCycle : Prop :=
  ∀ s : State, s.dq.length ≤ 8 → s.pin.rst = false →
    ∃ s', step s = .next s' ∧
      s'.dq =
        (if s.decState = .idle ∨ s.decState = .framing then s.dq.tail else s.dq) ++
        (match s.params.deltaSource with
          | .ecs => if s.ecs.holdValid = true ∧ s.dq.length < 8 then [s.ecs.holdDelta] else []
          | .external => if s.pin.dqWrValid = true ∧ s.dq.length < 8 then [s.pin.dqWrData] else []) ∧
      s'.mq =
        (if s.pin.mqRdReady = true then s.mq.tail else s.mq) ++
        (if s.decState = .emit ∧ s.mq.length < 4 then [s.msgHold] else []) ∧
      s'.nets.taken = if s.pin.mqRdReady = true then s.mq.head? else none

/-- R138, R150: each pulse is high in exactly the cycle after its event. -/
def Obligations.PulsesFollowTheirEvents : Prop :=
  ∀ s : State, ∃ s', step s = .next s' ∧
    (s'.emitPulse = true ↔ s.pin.rst = false ∧ s.decState = .emit ∧ s.mq.length < 4) ∧
    (s'.abandonPulse = true ↔
      s.pin.rst = false ∧ s.decState = .framing ∧ s.dq = [] ∧ s.pin.usTick = true ∧ s.giveupCnt.toNat = 2499 ∧
        s.dec.histLen.toNat ≠ 64 ∧ detect (s.dec.sr <<< 1) = .none) ∧
    (s'.edgeDropPulse = true ↔
      s.pin.rst = false ∧ s.params.deltaSource = .ecs ∧ s.pin.edge = true ∧ s.ecs.holdValid = true ∧ s.dq.length = 8)

/-- R153, R147: without `rst` FAULT stays, with its cause, its history and everything the Decode Stage owns; the
Consumer can still take messages. -/
def Obligations.FaultHoldsUntilReset : Prop :=
  ∀ s : State, s.decState = .fault → s.pin.rst = false →
    ∃ s', step s = .next s' ∧ s'.decState = .fault ∧ s'.faultCode = s.faultCode ∧ s'.dec = s.dec ∧
      s'.giveupCnt = s.giveupCnt ∧ s'.msgHold = s.msgHold ∧
      s'.mq = (if s.pin.mqRdReady = true then s.mq.tail else s.mq) ∧ ∃ more, s'.dq = s.dq ++ more

/-- R105, R23, R136, R144: which operations may write which registers: the decoder only the bins, NEW, a consume or
RESET; the capture registers only their own rows or RESET; FAULT_CODE only a consume outside DEC_START, or RESET; MQ
grows only by DEC_EMIT and its push; the build parameters never change. -/
def Obligations.RegistersHaveTheirWriters : Prop :=
  ∀ (i : Instr) (s t : State), exec i s = .next t →
    (t.dec = s.dec ∨ i ∈ [.clsGlitch, .clsRepeat, .clsAmbig, .clsDouble, .clsIdle, .decStart, .decConsume, .decGiveup, .reset]) ∧
    (t.ecs = s.ecs ∨ i ∈ [.ecsEdge, .ecsPush, .ecsTick, .reset]) ∧
    (t.faultCode = s.faultCode ∨ i ∈ [.decConsume, .decGiveup, .reset]) ∧
    (t.mq.length ≤ s.mq.length ∨ i ∈ [.decEmit, .mqPush]) ∧
    (t.decState = s.decState ∨ i ∈ [.decStart, .decConsume, .decGiveup, .decEmit, .reset]) ∧
    t.params = s.params

/-- R99: in a sound state a glitch never completes a frame. -/
def Obligations.GlitchNeverCompletesAFrame : Prop :=
  ∀ (s : State) (d : Delta) (rest : List Delta),
    Inv s → s.pin.rst = false → s.decState = .framing → s.dq = d :: rest → d.toNat ≤ 750 →
    ∃ s', step s = .next s' ∧ s'.decState ≠ .emit ∧ s'.dec.sr = s.dec.sr ∧ s'.dec.bitCount = s.dec.bitCount

/-- R118, R117, R156: with no delta and no reset coming, an attempt ends by the give-up at its 2500th counted tick and
not before: until then only GIVEUP_CNT counts, and the cycle of the 2500th tick consumes 2500. -/
def Obligations.SilenceEndsTheAttemptAtTick2500 : Prop :=
  ∀ (s : State) (ps rest : List PortsIn),
    s.inputs = ps ++ rest → silent ps → s.decState = .framing → s.dq = [] → s.ecs.holdValid = false →
    s.giveupCnt.toNat + ticksIn ps ≤ 2499 →
    ∃ s', Sys2Proof.core.run ps.length s = .next s' ∧ s'.decState = .framing ∧ s'.dec = s.dec ∧ s'.dq = [] ∧
      s'.giveupCnt.toNat = s.giveupCnt.toNat + ticksIn ps ∧
      (∀ p, rest.head? = some p → p.rst = false → p.usTick = true → s.giveupCnt.toNat + ticksIn ps = 2499 →
        ∃ t, step s' = .next t ∧ t.dec = (consume 2500 s.dec).2 ∧ t.giveupCnt = 0 ∧
          t.decState =
            match (consume 2500 s.dec).1 with
            | .none => .idle
            | .found _ => .emit
            | .fault _ => .fault)

/-! ### Whole-machine claims -/

/-- Every step keeps the invariant, from every state that meets it. -/
def Obligations.EveryStepKeepsTheInvariant : Prop :=
  ∀ s s' : State, Inv s → step s = .next s' → Inv s'

/-- R141 for the cycles without `rst`: such a cycle is a run of the transaction view. R141 speaks of every run and R140
gives TX no reset step; that a reset cycle is no part of a TX run, which the premise on `rst` says, is the model's choice
(log 19, DESIGN CHOICE). -/
def Obligations.CyclesAreTransactionRuns : Prop :=
  ∀ s : State, Inv s → s.pin.rst = false → ∃ s', step s = .next s' ∧ Tx.Run s.params s.tx s'.tx

/-- R168: with a Consumer that always pops and edges two cycles apart, no backlog builds up and no edge is dropped,
cycle after cycle until a fault. -/
def Obligations.ReadyConsumerDropsNoEdge : Prop :=
  ∀ s : State, Smooth s → s.pin.mqRdReady = true → (s.ecs.holdValid = true → s.pin.edge = false) →
    ∃ s', step s = .next s' ∧ s'.edgeDropPulse = false ∧ (s'.decState = .fault ∨ Smooth s')

end
end

