-- ==== Sys2Proof/Laws/Words.lean ====
section
/-! SUPPORT. The laws of the words: bytes of a shift register, the marker rows of SR64 as bytes, the condition words of
the one- and two-bit formats. -/

namespace Sys2Proof

/-- The bytes of a word put together from eight bytes. -/
theorem byteAt_ofBytes (b0 b1 b2 b3 b4 b5 b6 b7 : Byte) :
    byteAt (ofBytes b0 b1 b2 b3 b4 b5 b6 b7) 0 = b0 ∧ byteAt (ofBytes b0 b1 b2 b3 b4 b5 b6 b7) 1 = b1 ∧
    byteAt (ofBytes b0 b1 b2 b3 b4 b5 b6 b7) 2 = b2 ∧ byteAt (ofBytes b0 b1 b2 b3 b4 b5 b6 b7) 3 = b3 ∧
    byteAt (ofBytes b0 b1 b2 b3 b4 b5 b6 b7) 4 = b4 ∧ byteAt (ofBytes b0 b1 b2 b3 b4 b5 b6 b7) 5 = b5 ∧
    byteAt (ofBytes b0 b1 b2 b3 b4 b5 b6 b7) 6 = b6 ∧ byteAt (ofBytes b0 b1 b2 b3 b4 b5 b6 b7) 7 = b7 := by
  refine ⟨?_, ?_, ?_, ?_, ?_, ?_, ?_, ?_⟩ <;>
  · unfold byteAt ofBytes
    ext i hi
    simp only [BitVec.getElem_extractLsb', BitVec.getLsbD_setWidth, BitVec.getLsbD_append]
    interval_cases i <;> simp

/-- A word is its eight bytes. -/
theorem ofBytes_byteAt (w : BitVec 64) :
    ofBytes (byteAt w 0) (byteAt w 1) (byteAt w 2) (byteAt w 3) (byteAt w 4) (byteAt w 5) (byteAt w 6) (byteAt w 7) = w := by
  apply BitVec.eq_of_getLsbD_eq
  intro i hi
  unfold byteAt ofBytes
  simp only [BitVec.getLsbD_setWidth, BitVec.getLsbD_append]
  interval_cases i <;> simp

/-- A row whose mask is one byte of the word compares that byte. -/
theorem and_byte_mask (w : BitVec 64) (k : Nat) (b : Byte) (hk : k + 8 ≤ 64) :
    w &&& ((0xFF : Byte).zeroExtend 64 <<< k) = (b.zeroExtend 64 <<< k) ↔ w.extractLsb' k 8 = b := by
  constructor
  · intro h
    ext i hi
    have := congrArg (fun x => x.getLsbD (k + i)) h
    simp only [BitVec.getLsbD_and, BitVec.getLsbD_shiftLeft, BitVec.getLsbD_setWidth] at this
    rw [BitVec.getElem_extractLsb']
    have hk0 : k < 64 := by omega
    interval_cases i <;> simp_all [show ∀ j, j < 8 → k + j < 64 from by omega]
  · intro h
    subst h
    apply BitVec.eq_of_getLsbD_eq
    intro i hi
    simp only [BitVec.getLsbD_and, BitVec.getLsbD_shiftLeft, BitVec.getLsbD_setWidth, BitVec.getLsbD_extractLsb']
    by_cases h1 : i < k
    · simp [h1]
    · by_cases h2 : i - k < 8
      · obtain ⟨j, rfl⟩ : ∃ j, i = k + j := ⟨i - k, by omega⟩
        have : j < 8 := by omega
        interval_cases j <;> simp_all
      · simp [h1, h2, BitVec.getLsbD_of_ge _ _ (show 8 ≤ i - k by omega)]

/-! The five marker rows of SR64 (R57), each as a comparison of one byte. -/

theorem matchesRow_marker5 (w : BitVec 64) :
    matchesRow w 0xFF00000000000000 0xE500000000000000 = decide (byteAt w 0 = 0xE5) := by
  unfold matchesRow
  rw [beq_eq_decide, decide_eq_decide]
  exact and_byte_mask w 56 0xE5 (by decide)

theorem matchesRow_marker4 (w : BitVec 64) :
    matchesRow w 0x00FF000000000000 0x00E4000000000000 = decide (byteAt w 1 = 0xE4) := by
  unfold matchesRow
  rw [beq_eq_decide, decide_eq_decide]
  exact and_byte_mask w 48 0xE4 (by decide)

theorem matchesRow_marker3 (w : BitVec 64) :
    matchesRow w 0x0000FF0000000000 0x0000E30000000000 = decide (byteAt w 2 = 0xE3) := by
  unfold matchesRow
  rw [beq_eq_decide, decide_eq_decide]
  exact and_byte_mask w 40 0xE3 (by decide)

theorem matchesRow_marker2 (w : BitVec 64) :
    matchesRow w 0x000000FF00000000 0x000000E200000000 = decide (byteAt w 3 = 0xE2) := by
  unfold matchesRow
  rw [beq_eq_decide, decide_eq_decide]
  exact and_byte_mask w 32 0xE2 (by decide)

theorem matchesRow_marker1 (w : BitVec 64) :
    matchesRow w 0x00000000FF000000 0x00000000E1000000 = decide (byteAt w 4 = 0xE1) := by
  unfold matchesRow
  rw [beq_eq_decide, decide_eq_decide]
  exact and_byte_mask w 24 0xE1 (by decide)

end Sys2Proof
end

