-- ==== Sys2Proof/Laws/Detector.lean ====
section
/-! SUPPORT. The laws of the frame detector: the scan as a choice between bytes, the fields of the words it builds, and
the row that a shift register selects. -/

namespace Sys2Proof

theorem sr64_not_wide (w : BitVec 64) : ¬ 2 ^ Format.sr64.width ≤ w.toNat := by
  have := w.isLt
  simp only [Format.width]
  omega

/-- Every word of format SR64 is read by its rows. -/
theorem decode_sr64 (w : BitVec 64) : decode .sr64 w = .ok (decodeSr64 w) := by
  unfold decode
  rw [if_neg (sr64_not_wide w)]

/-- The row of a shift register, its masks read as bytes. -/
theorem decodeSr64_eq (w : BitVec 64) :
    decodeSr64 w =
      if byteAt w 0 = 0xE5 then
        .fdMatch5 (byteAt w 1) (byteAt w 2) (byteAt w 3) (byteAt w 4) (byteAt w 5) (byteAt w 6) (byteAt w 7)
      else if byteAt w 1 = 0xE4 then
        .fdMatch4 (byteAt w 0) (byteAt w 2) (byteAt w 3) (byteAt w 4) (byteAt w 5) (byteAt w 6) (byteAt w 7)
      else if byteAt w 2 = 0xE3 then
        .fdMatch3 (byteAt w 0) (byteAt w 1) (byteAt w 3) (byteAt w 4) (byteAt w 5) (byteAt w 6) (byteAt w 7)
      else if byteAt w 3 = 0xE2 then
        .fdMatch2 (byteAt w 0) (byteAt w 1) (byteAt w 2) (byteAt w 4) (byteAt w 5) (byteAt w 6) (byteAt w 7)
      else if byteAt w 4 = 0xE1 then
        .fdMatch1 (byteAt w 0) (byteAt w 1) (byteAt w 2) (byteAt w 3) (byteAt w 5) (byteAt w 6) (byteAt w 7)
      else
        .fdNone (byteAt w 0) (byteAt w 1) (byteAt w 2) (byteAt w 3) (byteAt w 4) (byteAt w 5) (byteAt w 6)
          (byteAt w 7) := by
  unfold decodeSr64
  simp only [matchesRow_marker5, matchesRow_marker4, matchesRow_marker3, matchesRow_marker2, matchesRow_marker1,
    decide_eq_true_eq]

namespace Machine

/-- `Detect(SR)` as a choice between the five marker bytes. -/
theorem detect_eq (sr : ShiftReg) :
    detect sr =
      if byteAt sr 0 = 0xE5 then
        .found (ofBytes 5 (byteAt sr 1) (byteAt sr 2) (byteAt sr 3) (byteAt sr 4) (byteAt sr 5) (byteAt sr 6)
          (byteAt sr 7))
      else if byteAt sr 1 = 0xE4 then
        .found (ofBytes 4 (byteAt sr 2) (byteAt sr 3) (byteAt sr 4) (byteAt sr 5) (byteAt sr 6) (byteAt sr 7) 0)
      else if byteAt sr 2 = 0xE3 then
        .found (ofBytes 3 (byteAt sr 3) (byteAt sr 4) (byteAt sr 5) (byteAt sr 6) (byteAt sr 7) 0 0)
      else if byteAt sr 3 = 0xE2 then
        .found (ofBytes 2 (byteAt sr 4) (byteAt sr 5) (byteAt sr 6) (byteAt sr 7) 0 0 0)
      else if byteAt sr 4 = 0xE1 then
        .found (ofBytes 1 (byteAt sr 5) (byteAt sr 6) (byteAt sr 7) 0 0 0 0)
      else .none := by
  have e5 : markerOf (BitVec.ofNat 8 5) = 0xE5 := rfl
  have e4 : markerOf (BitVec.ofNat 8 4) = 0xE4 := rfl
  have e3 : markerOf (BitVec.ofNat 8 3) = 0xE3 := rfl
  have e2 : markerOf (BitVec.ofNat 8 2) = 0xE2 := rfl
  have e1 : markerOf (BitVec.ofNat 8 1) = 0xE1 := rfl
  unfold detect
  simp only [detectFrom]
  rw [e5, e4, e3, e2, e1]
  split_ifs <;> simp only [buildMsgAt, framePayload] <;>
    simp only [Nat.reduceSub, Nat.reduceAdd, Nat.reduceLT, if_true, if_false, *] <;> rfl

/-- The length check of BuildMsg never fails inside a scan. -/
theorem detect_ne_badLen (sr : ShiftReg) : detect sr ≠ .badLen := by
  rw [detect_eq]
  split_ifs <;> simp

/-- The seed holds no frame. -/
theorem detect_seed : detect 1 = .none := by decide

theorem msgLen_ofBytes (b0 b1 b2 b3 b4 b5 b6 b7 : Byte) :
    msgLen (ofBytes b0 b1 b2 b3 b4 b5 b6 b7) = b0.extractLsb' 0 3 := by
  unfold msgLen ofBytes
  ext i hi
  simp only [BitVec.getElem_extractLsb', BitVec.getLsbD_setWidth, BitVec.getLsbD_append]
  interval_cases i <;> simp

theorem msgReserved_ofBytes (b0 b1 b2 b3 b4 b5 b6 b7 : Byte) :
    msgReserved (ofBytes b0 b1 b2 b3 b4 b5 b6 b7) = b0.extractLsb' 3 5 := by
  unfold msgReserved ofBytes
  ext i hi
  simp only [BitVec.getElem_extractLsb', BitVec.getLsbD_setWidth, BitVec.getLsbD_append]
  interval_cases i <;> simp

theorem msgSrc_eq_byteAt (w : MsgWord) : msgSrc w = byteAt w 1 := rfl
theorem msgDest_eq_byteAt (w : MsgWord) : msgDest w = byteAt w 2 := rfl

theorem msgPayload_eq_byteAt (w : MsgWord) {j : Nat} (h : j < 5) : msgPayload w j = byteAt w (3 + j) := by
  unfold msgPayload byteAt
  congr 1
  omega

end Machine

end Sys2Proof
end

