-- ==== Sys2Proof/Laws/Memory.lean ====
section
/-! SUPPORT. The laws of the history: every write keeps the canonical form, a read after a write of the same index gives
the value written, and every other index reads as before. -/

namespace Sys2Proof.Machine

theorem Memory.wfFrom_mono {lo hi : Nat} (m : List (Nat × Delta)) (h : hi ≤ lo) (w : Memory.wfFrom lo m = true) :
    Memory.wfFrom hi m = true := by
  cases m with
  | nil => rfl
  | cons c m =>
    simp only [Memory.wfFrom, Bool.and_eq_true, decide_eq_true_eq] at w ⊢
    exact ⟨⟨⟨by omega, w.1.1.2⟩, w.1.2⟩, w.2⟩

theorem Memory.putCell_wfFrom {lo a : Nat} {v : Delta} {m : List (Nat × Delta)} (hlo : lo ≤ a) (ha : a < 64)
    (w : Memory.wfFrom (a + 1) m = true) : Memory.wfFrom lo (Memory.putCell a v m) = true := by
  unfold Memory.putCell
  split
  · exact Memory.wfFrom_mono m (by omega) w
  · simp_all [Memory.wfFrom, Config.histDepth]

theorem Memory.writeCells_wfFrom {lo a : Nat} (v : Delta) (m : List (Nat × Delta)) (hlo : lo ≤ a) (ha : a < 64)
    (w : Memory.wfFrom lo m = true) : Memory.wfFrom lo (Memory.writeCells m a v) = true := by
  induction m generalizing lo with
  | nil => exact Memory.putCell_wfFrom hlo ha rfl
  | cons c m ih =>
    obtain ⟨k, x⟩ := c
    have hw := w
    simp only [Memory.wfFrom, Bool.and_eq_true, decide_eq_true_eq] at w
    unfold Memory.writeCells
    split
    · rename_i h
      refine Memory.putCell_wfFrom hlo ha ?_
      simp only [Memory.wfFrom, Bool.and_eq_true, decide_eq_true_eq]
      exact ⟨⟨⟨by omega, w.1.1.2⟩, w.1.2⟩, w.2⟩
    · split
      · rename_i h
        subst h
        exact Memory.putCell_wfFrom hlo ha w.2
      · simp only [Memory.wfFrom, Bool.and_eq_true, decide_eq_true_eq]
        exact ⟨w.1, ih (by omega) w.2⟩

/-- A write keeps the canonical form. -/
theorem Memory.write_wf (m : Memory) (a : BitVec 6) (v : Delta) (w : m.wf = true) : (m.write a v).wf = true :=
  Memory.writeCells_wfFrom v m.cells (Nat.zero_le _) a.isLt w

theorem Memory.readCells_below {lo a : Nat} (m : List (Nat × Delta)) (h : a < lo) (w : Memory.wfFrom lo m = true) :
    Memory.readCells m a = Config.histUnwritten := by
  induction m generalizing lo with
  | nil => rfl
  | cons c m ih =>
    obtain ⟨k, x⟩ := c
    simp only [Memory.wfFrom, Bool.and_eq_true, decide_eq_true_eq] at w
    unfold Memory.readCells
    rw [if_neg (by omega)]
    exact ih (by omega) w.2

theorem Memory.readCells_putCell_same {lo a : Nat} (v : Delta) (m : List (Nat × Delta)) (h : a < lo)
    (w : Memory.wfFrom lo m = true) : Memory.readCells (Memory.putCell a v m) a = v := by
  unfold Memory.putCell
  split
  · rename_i hv
    rw [hv]
    exact Memory.readCells_below m h w
  · simp [Memory.readCells]

theorem Memory.readCells_writeCells_same {lo : Nat} (m : List (Nat × Delta)) (a : Nat) (v : Delta)
    (w : Memory.wfFrom lo m = true) : Memory.readCells (Memory.writeCells m a v) a = v := by
  induction m generalizing lo with
  | nil => exact Memory.readCells_putCell_same (lo := a + 1) v [] (by omega) rfl
  | cons c m ih =>
    obtain ⟨k, x⟩ := c
    have hw := w
    simp only [Memory.wfFrom, Bool.and_eq_true, decide_eq_true_eq] at w
    unfold Memory.writeCells
    split
    · rename_i h
      refine Memory.readCells_putCell_same (lo := k) v _ h ?_
      simp only [Memory.wfFrom, Bool.and_eq_true, decide_eq_true_eq]
      exact ⟨⟨⟨by omega, w.1.1.2⟩, w.1.2⟩, w.2⟩
    · split
      · rename_i h
        subst h
        exact Memory.readCells_putCell_same (lo := a + 1) v m (by omega) w.2
      · rename_i h
        simp only [Memory.readCells, if_neg (Ne.symm h)]
        exact ih w.2

theorem Memory.readCells_putCell_other {a b : Nat} (v : Delta) (m : List (Nat × Delta)) (h : b ≠ a) :
    Memory.readCells (Memory.putCell a v m) b = Memory.readCells m b := by
  unfold Memory.putCell
  split
  · rfl
  · simp [Memory.readCells, Ne.symm h]

theorem Memory.readCells_writeCells_other {a b : Nat} (m : List (Nat × Delta)) (v : Delta) (h : b ≠ a) :
    Memory.readCells (Memory.writeCells m a v) b = Memory.readCells m b := by
  induction m with
  | nil => exact Memory.readCells_putCell_other v [] h
  | cons c m ih =>
    obtain ⟨k, x⟩ := c
    unfold Memory.writeCells
    split
    · exact Memory.readCells_putCell_other v _ h
    · split
      · rename_i hk
        subst hk
        rw [Memory.readCells_putCell_other v m h]
        simp [Memory.readCells, Ne.symm h]
      · simp only [Memory.readCells, ih]

/-- The entry just written reads back. -/
theorem Memory.read_write_same (m : Memory) (a : BitVec 6) (v : Delta) (w : m.wf = true) : (m.write a v).read a = v :=
  Memory.readCells_writeCells_same m.cells a.toNat v w

/-- Every other entry reads as before. -/
theorem Memory.read_write_other (m : Memory) {a b : BitVec 6} (v : Delta) (h : b ≠ a) :
    (m.write a v).read b = m.read b :=
  Memory.readCells_writeCells_other m.cells v (fun e => h (BitVec.eq_of_toNat_eq e))

/-- The empty history is in canonical form. -/
theorem Decoder.reset_hist_wf : Decoder.reset.hist.wf = true := rfl

end Sys2Proof.Machine
end

