-- ==== Sys2Proof/Laws/Decoder.lean ====
section
/-! SUPPORT. The laws of the decoder: what a recovery leaves alone, what it shifts in, the two cases of a consume, and
how an attempt goes through its deltas. -/

namespace Sys2Proof.Machine

@[simp] theorem recover_hist (d : Delta) (c : Decoder) : (recover d c).hist = c.hist := by
  unfold recover
  cases classify d <;>
    simp only [recoverBin, recoverGlitch, recoverRepeat, recoverAmbig, recoverDouble, recoverIdle]
  split <;> rfl

@[simp] theorem recover_histLen (d : Delta) (c : Decoder) : (recover d c).histLen = c.histLen := by
  unfold recover
  cases classify d <;>
    simp only [recoverBin, recoverGlitch, recoverRepeat, recoverAmbig, recoverDouble, recoverIdle]
  split <;> rfl

@[simp] theorem newAttempt_sr (c : Decoder) : (newAttempt c).sr = 1 := rfl
@[simp] theorem newAttempt_bitCount (c : Decoder) : (newAttempt c).bitCount = 0 := rfl
@[simp] theorem newAttempt_histLen (c : Decoder) : (newAttempt c).histLen = 0 := rfl
@[simp] theorem newAttempt_hist (c : Decoder) : (newAttempt c).hist = c.hist := rfl

@[simp] theorem appendHist_sr (d : Delta) (c : Decoder) : (appendHist d c).sr = c.sr := rfl
@[simp] theorem appendHist_bitCount (d : Delta) (c : Decoder) : (appendHist d c).bitCount = c.bitCount := rfl
@[simp] theorem appendHist_histLen (d : Delta) (c : Decoder) : (appendHist d c).histLen = c.histLen + 1 := rfl
@[simp] theorem appendHist_hist (d : Delta) (c : Decoder) :
    (appendHist d c).hist = c.hist.write (c.histLen.setWidth 6) d := rfl

theorem histLen_succ {l : BitVec 7} (h : l.toNat < 64) : (l + 1).toNat = l.toNat + 1 := by
  rw [BitVec.toNat_add]
  simp
  omega

/-- SR after a recovery: the bits of the bin, shifted in one at a time (R66). -/
theorem recover_sr (d : Delta) (c : Decoder) :
    (recover d c).sr = (bitsOfBin c.lastBit (classify d)).foldl shiftIn c.sr := by
  unfold recover
  cases classify d <;>
    simp only [recoverBin, bitsOfBin, recoverGlitch, recoverRepeat, recoverAmbig, recoverDouble, recoverIdle]
  · rfl
  · simp [shiftIn]
  · split <;> simp [shiftIn, bit]
  · simp [shiftIn, bit]
  · simp [shiftIn, bit]

/-- BIT_COUNT after a recovery counts those bits (R81). -/
theorem recover_bitCount (d : Delta) (c : Decoder) :
    (recover d c).bitCount = c.bitCount + BitVec.ofNat 8 (bitsOfBin c.lastBit (classify d)).length := by
  unfold recover
  cases classify d <;>
    simp [recoverBin, bitsOfBin, recoverGlitch, recoverRepeat, recoverAmbig, recoverDouble, recoverIdle]
  split <;> rfl

/-- LAST_BIT after a recovery: the last bit shifted in (R73). -/
theorem recover_lastBit (d : Delta) (c : Decoder) :
    (recover d c).lastBit = (bitsOfBin c.lastBit (classify d)).getLastD c.lastBit := by
  unfold recover
  cases classify d <;>
    simp only [recoverBin, bitsOfBin, recoverGlitch, recoverRepeat, recoverAmbig, recoverDouble, recoverIdle]
  · rfl
  · simp [Decoder.lastBit, bit]
  · split <;> simp [Decoder.lastBit]
  · simp [Decoder.lastBit]
  · simp [Decoder.lastBit]

/-- No bin holds more than two bits (R81). -/
theorem bitsOfBin_length_le (b : Bool) (k : Bin) : (bitsOfBin b k).length ≤ 2 := by
  cases k <;> cases b <;> decide

/-- One bit into the shift register, on numbers. -/
theorem shiftIn_toNat (sr : ShiftReg) (b : Bool) : (shiftIn sr b).toNat = (2 * sr.toNat + b.toNat) % 2 ^ 64 := by
  have h : shiftIn sr b = sr <<< 1 + (bit b).zeroExtend 64 := by
    unfold shiftIn
    rw [BitVec.add_eq_or_of_and_eq_zero]
    ext i hi
    cases b <;> rcases i with _ | i <;> simp [bit]
  rw [h]
  cases b <;> simp [bit, BitVec.toNat_add, BitVec.toNat_shiftLeft, Nat.shiftLeft_eq, Nat.mul_comm]

theorem consumedOf_eq_none {r : Scan} : consumedOf r = .none ↔ r = .none := by cases r <;> simp [consumedOf]
theorem consumedOf_eq_found {r : Scan} {w : MsgWord} : consumedOf r = .found w ↔ r = .found w := by
  cases r <;> simp [consumedOf]

/-- A consume with the history full: the fault, and nothing changed (R101). -/
theorem consume_full {d : Delta} {c : Decoder} (h : c.histLen.toNat = 64) : consume d c = (.fault .histOvf, c) := by
  simp [consume, Decoder.histFull, Config.histDepth, h]

/-- A consume with room: recovery, scan, append (R101). -/
theorem consume_room {d : Delta} {c : Decoder} (h : c.histLen.toNat ≠ 64) :
    consume d c = (consumedOf (detect (recover d c).sr), appendHist d (recover d c)) := by
  simp [consume, Decoder.histFull, Config.histDepth, h]

/-- Everything a consume can do: overflow, a message, or nothing. -/
theorem consume_cases (d : Delta) (c : Decoder) :
    (c.histLen.toNat = 64 ∧ consume d c = (.fault .histOvf, c)) ∨
    (c.histLen.toNat ≠ 64 ∧ detect (recover d c).sr = .none ∧ consume d c = (.none, appendHist d (recover d c))) ∨
    (c.histLen.toNat ≠ 64 ∧
      ∃ w, detect (recover d c).sr = .found w ∧ consume d c = (.found w, appendHist d (recover d c))) := by
  by_cases h : c.histLen.toNat = 64
  · exact .inl ⟨h, consume_full h⟩
  · rw [consume_room h]
    cases e : detect (recover d c).sr with
    | none => exact .inr (.inl ⟨h, rfl, rfl⟩)
    | found w => exact .inr (.inr ⟨h, w, rfl, rfl⟩)
    | badLen => exact absurd e (detect_ne_badLen _)

/-- A consume keeps the canonical form of the history. -/
theorem consume_hist_wf (d : Delta) (c : Decoder) (w : c.hist.wf = true) : (consume d c).2.hist.wf = true := by
  rcases consume_cases d c with ⟨-, e⟩ | ⟨-, -, e⟩ | ⟨-, m, -, e⟩ <;> rw [e]
  · exact w
  · simpa using Memory.write_wf _ _ _ w
  · simpa using Memory.write_wf _ _ _ w

/-- A consume with room adds one to HIST_LEN. -/
theorem consume_histLen (d : Delta) (c : Decoder) (h : c.histLen.toNat < 64) :
    (consume d c).2.histLen.toNat = c.histLen.toNat + 1 := by
  rw [consume_room (by omega)]
  simpa using histLen_succ h

/-- The entry that a consume with room writes is its delta (R26, R104). -/
theorem consume_hist_read_same (d : Delta) (c : Decoder) (h : c.histLen.toNat < 64) (w : c.hist.wf = true) :
    (consume d c).2.hist.read (BitVec.ofNat 6 c.histLen.toNat) = d := by
  rw [consume_room (by omega)]
  rw [BitVec.ofNat_toNat]
  simpa using Memory.read_write_same c.hist _ d w

/-- Every entry but that of HIST_LEN reads as before a consume. -/
theorem consume_hist_read_other (d : Delta) (c : Decoder) {a : BitVec 6} (h : a.toNat ≠ c.histLen.toNat)
    (hl : c.histLen.toNat ≤ 64) : (consume d c).2.hist.read a = c.hist.read a := by
  by_cases hf : c.histLen.toNat = 64
  · rw [consume_full hf]
  · rw [consume_room hf]
    have e : a ≠ c.histLen.setWidth 6 := by
      intro e
      apply h
      rw [e, BitVec.toNat_setWidth, Nat.mod_eq_of_lt (by omega)]
    simpa using Memory.read_write_other c.hist d e

theorem attempt_nil (c : Decoder) : attempt [] c = (.none, c) := rfl

/-- An attempt goes on past a delta that gives nothing. -/
theorem attempt_cons_none {d : Delta} {c c' : Decoder} (h : consume d c = (.none, c')) (ds : List Delta) :
    attempt (d :: ds) c = attempt ds c' := by
  rw [attempt, h]

/-- An attempt ends at a delta that gives something. -/
theorem attempt_cons_end {d : Delta} {c : Decoder} (h : (consume d c).1 ≠ .none) (ds : List Delta) :
    attempt (d :: ds) c = consume d c := by
  rw [attempt]
  split
  · rename_i c' e
    rw [e] at h
    exact absurd rfl h
  · rfl

/-- An attempt that has answered nothing after some deltas goes on from there. -/
theorem attempt_append {ds : List Delta} {c : Decoder} (h : (attempt ds c).1 = .none) (es : List Delta) :
    attempt (ds ++ es) c = attempt es (attempt ds c).2 := by
  induction ds generalizing c with
  | nil => rfl
  | cons d ds ih =>
    by_cases hd : (consume d c).1 = .none
    · have e : consume d c = (.none, (consume d c).2) := Prod.ext hd rfl
      rw [attempt_cons_none e] at h ⊢
      rw [List.cons_append, attempt_cons_none e]
      exact ih h
    · rw [attempt_cons_end hd] at h
      exact absurd h hd

end Sys2Proof.Machine
end

