-- ==== Sys2Proof/Laws/Select.lean ====
section
/-! SUPPORT. The laws of selection: what fires in each format, from the fields of its condition word. -/

namespace Sys2Proof.Machine

theorem selected_rst1 (p : PortsIn) : selected .rst1 (rst1Word p) = if p.rst then [.reset] else [] := by
  unfold rst1Word
  cases p.rst <;> decide

theorem selected_tick1 (p : PortsIn) : selected .tick1 (tick1Word p) = if p.usTick then [.ecsTick] else [] := by
  unfold tick1Word
  cases p.usTick <;> decide

theorem selected_ecsedge (p : PortsIn) (s : State) :
    selected .ecsedge (ecsedgeWord p s) = if p.edge then (if s.stalled then [.ecsDrop] else [.ecsEdge]) else [] := by
  unfold ecsedgeWord
  cases p.edge <;> cases s.stalled <;> decide

theorem selected_ecspush (s : State) :
    selected .ecspush (ecspushWord s) = if s.ecs.holdValid && !s.dqFull then [.ecsPush] else [] := by
  unfold ecspushWord
  cases s.ecs.holdValid <;> cases s.dqFull <;> decide

theorem selected_hsMqPop (p : PortsIn) (s : State) :
    selected .hsMqPop (hsMqPopWord p s) = if s.mqValid && p.mqRdReady then [.mqPop] else [] := by
  unfold hsMqPopWord hsWord
  cases s.mqValid <;> cases p.mqRdReady <;> decide

theorem selected_hsDqPop (s : State) :
    selected .hsDqPop (hsDqPopWord s) = if s.dqNe && s.takesDeltas then [.dqPop] else [] := by
  unfold hsDqPopWord hsWord
  cases s.dqNe <;> cases s.takesDeltas <;> decide

theorem selected_hsMqPush (s : State) :
    selected .hsMqPush (hsMqPushWord s) = if s.decState == .emit && s.mqNf then [.mqPush] else [] := by
  unfold hsMqPushWord hsWord
  cases (s.decState == DecState.emit) <;> cases s.mqNf <;> decide

theorem selected_portHist (a : BitVec 6) : selected .portHist (a.zeroExtend 64) = [.histRd a] := by
  revert a
  decide

theorem selected_portStatus : selected .portStatus 0 = [.statusRd] := by decide

/-- The two read ports are read in every cycle. -/
theorem readOps_eq (p : PortsIn) : readOps p = [.histRd p.histRdAddr, .statusRd] := by
  unfold readOps
  rw [selected_portHist, selected_portStatus]
  rfl

/-- A handshake word above which an operand stands: its two bits. -/
theorem hsData_and (d : Delta) (h : BitVec 2) :
    (d ++ h).zeroExtend 64 &&& 0b11 = h.zeroExtend 64 := by
  apply BitVec.eq_of_getLsbD_eq
  intro i hi
  simp only [BitVec.getLsbD_and, BitVec.truncate_eq_setWidth, BitVec.getLsbD_setWidth, BitVec.getLsbD_append]
  by_cases h1 : i < 2
  · interval_cases i <;> simp
  · have e : (0b11#64).getLsbD i = false := by
      interval_cases i <;> first | omega | decide
    rw [show (3 : BitVec 64) = 0b11#64 from rfl, e, BitVec.getLsbD_of_ge h i (by omega)]
    simp

/-- A handshake word above which an operand stands: the operand. -/
theorem hsData_operand (d : Delta) (h : BitVec 2) : ((d ++ h).zeroExtend 64).extractLsb' 2 32 = d := by
  ext i hi
  simp only [BitVec.getElem_extractLsb', BitVec.truncate_eq_setWidth, BitVec.getLsbD_setWidth, BitVec.getLsbD_append]
  simp [show 2 + i < 64 by omega, show ¬ 2 + i < 2 by omega, hi]

theorem hsData_not_wide (d : Delta) (h : BitVec 2) :
    ¬ 2 ^ Format.hsDqPush.width ≤ ((d ++ h).zeroExtend 64 : BitVec 64).toNat := by
  have := (d ++ h).isLt
  simp only [BitVec.truncate_eq_setWidth, BitVec.toNat_setWidth, Format.width]
  omega

theorem decode_hsDqPush (d : Delta) (valid ready : Bool) :
    decode .hsDqPush ((d ++ (bit valid ++ bit ready)).zeroExtend 64) =
      if valid && ready then .ok (.dqPush d) else .error .noRow := by
  unfold decode
  rw [if_neg (hsData_not_wide d _)]
  show decodeHs _ _ = _
  unfold decodeHs matchesRow
  rw [hsData_and, hsData_operand]
  cases valid <;> cases ready <;> rfl

theorem selected_hsDqPush (p : PortsIn) (s : State) :
    selected .hsDqPush (hsDqPushWord p s) = if p.dqWrValid && s.dqReady then [.dqPush p.dqWrData] else [] := by
  unfold selected hsDqPushWord
  rw [decode_hsDqPush]
  cases p.dqWrValid <;> cases s.dqReady <;> rfl

/-- The decode-stage row from the six fields of its word (R62). -/
def deccondRow (st : DecState) (ne expire nf tick : Bool) : Instr :=
  match st with
  | .idle => if ne then .decStart else .decIdleWait
  | .framing => if ne then .decConsume else if expire then .decGiveup else .decWait tick
  | .emit => if nf then .decEmit else .decEmitStall
  | .fault => .decFaultHold

theorem selected_deccond_fields (st : DecState) (ne expire nf tick : Bool) :
    selected .deccond ((decStateCode st ++ bit ne ++ bit expire ++ bit nf ++ bit tick).zeroExtend 64) =
      [deccondRow st ne expire nf tick] := by
  cases st <;> cases ne <;> cases expire <;> cases nf <;> cases tick <;> decide

theorem selected_deccond (p : PortsIn) (s : State) :
    selected .deccond (deccondWord p s) =
      [deccondRow s.decState s.dqNe (s.expire p.usTick) s.mqNf p.usTick] :=
  selected_deccond_fields _ _ _ _ _

theorem runOps_nil (s : State) : runOps [] s = .next s := rfl

/-- An operation that answers a next state hands it to the operations after it. -/
theorem runOps_cons {i : Instr} {s t : State} (h : exec i s = .next t) (is : List Instr) :
    runOps (i :: is) s = runOps is t := by
  rw [runOps, h]

theorem runOps_append {is : List Instr} {s t : State} (h : runOps is s = .next t) (js : List Instr) :
    runOps (is ++ js) s = runOps js t := by
  induction is generalizing s with
  | nil =>
    rw [runOps_nil] at h
    cases h
    rfl
  | cons i is ih =>
    rw [runOps] at h
    cases e : exec i s with
    | next u =>
      rw [e] at h
      rw [List.cons_append, runOps_cons e]
      exact ih h
    | fault r => rw [e] at h; simp at h
    | refused r => rw [e] at h; simp at h

end Sys2Proof.Machine
end

