-- ==== Sys2Proof/Laws/State.lean ====
section
/-! SUPPORT. One lemma per field per update of the state: what each shared update leaves unchanged, and what it writes,
so that no later proof unfolds a record update. -/

namespace Sys2Proof.Machine

@[simp] theorem pushDq_ecs (v : Delta) (s : State) : (pushDq v s).ecs = s.ecs := by unfold pushDq; split <;> rfl
@[simp] theorem pushDq_dec (v : Delta) (s : State) : (pushDq v s).dec = s.dec := by unfold pushDq; split <;> rfl
@[simp] theorem pushDq_decState (v : Delta) (s : State) : (pushDq v s).decState = s.decState := by unfold pushDq; split <;> rfl
@[simp] theorem pushDq_giveupCnt (v : Delta) (s : State) : (pushDq v s).giveupCnt = s.giveupCnt := by unfold pushDq; split <;> rfl
@[simp] theorem pushDq_msgHold (v : Delta) (s : State) : (pushDq v s).msgHold = s.msgHold := by unfold pushDq; split <;> rfl
@[simp] theorem pushDq_faultCode (v : Delta) (s : State) : (pushDq v s).faultCode = s.faultCode := by unfold pushDq; split <;> rfl
@[simp] theorem pushDq_mq (v : Delta) (s : State) : (pushDq v s).mq = s.mq := by unfold pushDq; split <;> rfl
@[simp] theorem pushDq_emitPulse (v : Delta) (s : State) : (pushDq v s).emitPulse = s.emitPulse := by unfold pushDq; split <;> rfl
@[simp] theorem pushDq_abandonPulse (v : Delta) (s : State) : (pushDq v s).abandonPulse = s.abandonPulse := by unfold pushDq; split <;> rfl
@[simp] theorem pushDq_edgeDropPulse (v : Delta) (s : State) : (pushDq v s).edgeDropPulse = s.edgeDropPulse := by unfold pushDq; split <;> rfl
@[simp] theorem pushDq_params (v : Delta) (s : State) : (pushDq v s).params = s.params := by unfold pushDq; split <;> rfl
@[simp] theorem pushDq_inputs (v : Delta) (s : State) : (pushDq v s).inputs = s.inputs := by unfold pushDq; split <;> rfl
@[simp] theorem pushDq_out (v : Delta) (s : State) : (pushDq v s).out = s.out := by unfold pushDq; split <;> rfl
@[simp] theorem pushDq_nets (v : Delta) (s : State) : (pushDq v s).nets = s.nets := by unfold pushDq; split <;> rfl
@[simp] theorem pushDq_freeCtr (v : Delta) (s : State) : (pushDq v s).freeCtr = s.freeCtr := by unfold pushDq; split <;> rfl

@[simp] theorem pushMq_ecs (v : MsgWord) (s : State) : (pushMq v s).ecs = s.ecs := by unfold pushMq; split <;> rfl
@[simp] theorem pushMq_dec (v : MsgWord) (s : State) : (pushMq v s).dec = s.dec := by unfold pushMq; split <;> rfl
@[simp] theorem pushMq_decState (v : MsgWord) (s : State) : (pushMq v s).decState = s.decState := by unfold pushMq; split <;> rfl
@[simp] theorem pushMq_giveupCnt (v : MsgWord) (s : State) : (pushMq v s).giveupCnt = s.giveupCnt := by unfold pushMq; split <;> rfl
@[simp] theorem pushMq_msgHold (v : MsgWord) (s : State) : (pushMq v s).msgHold = s.msgHold := by unfold pushMq; split <;> rfl
@[simp] theorem pushMq_faultCode (v : MsgWord) (s : State) : (pushMq v s).faultCode = s.faultCode := by unfold pushMq; split <;> rfl
@[simp] theorem pushMq_dq (v : MsgWord) (s : State) : (pushMq v s).dq = s.dq := by unfold pushMq; split <;> rfl
@[simp] theorem pushMq_emitPulse (v : MsgWord) (s : State) : (pushMq v s).emitPulse = s.emitPulse := by unfold pushMq; split <;> rfl
@[simp] theorem pushMq_abandonPulse (v : MsgWord) (s : State) : (pushMq v s).abandonPulse = s.abandonPulse := by unfold pushMq; split <;> rfl
@[simp] theorem pushMq_edgeDropPulse (v : MsgWord) (s : State) : (pushMq v s).edgeDropPulse = s.edgeDropPulse := by unfold pushMq; split <;> rfl
@[simp] theorem pushMq_params (v : MsgWord) (s : State) : (pushMq v s).params = s.params := by unfold pushMq; split <;> rfl
@[simp] theorem pushMq_inputs (v : MsgWord) (s : State) : (pushMq v s).inputs = s.inputs := by unfold pushMq; split <;> rfl
@[simp] theorem pushMq_out (v : MsgWord) (s : State) : (pushMq v s).out = s.out := by unfold pushMq; split <;> rfl
@[simp] theorem pushMq_nets (v : MsgWord) (s : State) : (pushMq v s).nets = s.nets := by unfold pushMq; split <;> rfl
@[simp] theorem pushMq_freeCtr (v : MsgWord) (s : State) : (pushMq v s).freeCtr = s.freeCtr := by unfold pushMq; split <;> rfl

@[simp] theorem popMq_ecs (s : State) : (popMq s).ecs = s.ecs := by unfold popMq; split <;> rfl
@[simp] theorem popMq_dec (s : State) : (popMq s).dec = s.dec := by unfold popMq; split <;> rfl
@[simp] theorem popMq_decState (s : State) : (popMq s).decState = s.decState := by unfold popMq; split <;> rfl
@[simp] theorem popMq_giveupCnt (s : State) : (popMq s).giveupCnt = s.giveupCnt := by unfold popMq; split <;> rfl
@[simp] theorem popMq_msgHold (s : State) : (popMq s).msgHold = s.msgHold := by unfold popMq; split <;> rfl
@[simp] theorem popMq_faultCode (s : State) : (popMq s).faultCode = s.faultCode := by unfold popMq; split <;> rfl
@[simp] theorem popMq_dq (s : State) : (popMq s).dq = s.dq := by unfold popMq; split <;> rfl
@[simp] theorem popMq_emitPulse (s : State) : (popMq s).emitPulse = s.emitPulse := by unfold popMq; split <;> rfl
@[simp] theorem popMq_abandonPulse (s : State) : (popMq s).abandonPulse = s.abandonPulse := by unfold popMq; split <;> rfl
@[simp] theorem popMq_edgeDropPulse (s : State) : (popMq s).edgeDropPulse = s.edgeDropPulse := by unfold popMq; split <;> rfl
@[simp] theorem popMq_params (s : State) : (popMq s).params = s.params := by unfold popMq; split <;> rfl
@[simp] theorem popMq_inputs (s : State) : (popMq s).inputs = s.inputs := by unfold popMq; split <;> rfl
@[simp] theorem popMq_out (s : State) : (popMq s).out = s.out := by unfold popMq; split <;> rfl
@[simp] theorem popMq_freeCtr (s : State) : (popMq s).freeCtr = s.freeCtr := by unfold popMq; split <;> rfl

@[simp] theorem raiseFault_ecs (code : FaultCode) (s : State) : (raiseFault code s).ecs = s.ecs := rfl
@[simp] theorem raiseFault_dec (code : FaultCode) (s : State) : (raiseFault code s).dec = s.dec := rfl
@[simp] theorem raiseFault_giveupCnt (code : FaultCode) (s : State) : (raiseFault code s).giveupCnt = s.giveupCnt := rfl
@[simp] theorem raiseFault_msgHold (code : FaultCode) (s : State) : (raiseFault code s).msgHold = s.msgHold := rfl
@[simp] theorem raiseFault_dq (code : FaultCode) (s : State) : (raiseFault code s).dq = s.dq := rfl
@[simp] theorem raiseFault_mq (code : FaultCode) (s : State) : (raiseFault code s).mq = s.mq := rfl
@[simp] theorem raiseFault_emitPulse (code : FaultCode) (s : State) : (raiseFault code s).emitPulse = s.emitPulse := rfl
@[simp] theorem raiseFault_abandonPulse (code : FaultCode) (s : State) : (raiseFault code s).abandonPulse = s.abandonPulse := rfl
@[simp] theorem raiseFault_edgeDropPulse (code : FaultCode) (s : State) : (raiseFault code s).edgeDropPulse = s.edgeDropPulse := rfl
@[simp] theorem raiseFault_params (code : FaultCode) (s : State) : (raiseFault code s).params = s.params := rfl
@[simp] theorem raiseFault_inputs (code : FaultCode) (s : State) : (raiseFault code s).inputs = s.inputs := rfl
@[simp] theorem raiseFault_out (code : FaultCode) (s : State) : (raiseFault code s).out = s.out := rfl
@[simp] theorem raiseFault_nets (code : FaultCode) (s : State) : (raiseFault code s).nets = s.nets := rfl
@[simp] theorem raiseFault_freeCtr (code : FaultCode) (s : State) : (raiseFault code s).freeCtr = s.freeCtr := rfl

@[simp] theorem setScan_ecs (r : Scan) (s : State) : (setScan r s).ecs = s.ecs := rfl
@[simp] theorem setScan_dec (r : Scan) (s : State) : (setScan r s).dec = s.dec := rfl
@[simp] theorem setScan_decState (r : Scan) (s : State) : (setScan r s).decState = s.decState := rfl
@[simp] theorem setScan_giveupCnt (r : Scan) (s : State) : (setScan r s).giveupCnt = s.giveupCnt := rfl
@[simp] theorem setScan_msgHold (r : Scan) (s : State) : (setScan r s).msgHold = s.msgHold := rfl
@[simp] theorem setScan_faultCode (r : Scan) (s : State) : (setScan r s).faultCode = s.faultCode := rfl
@[simp] theorem setScan_dq (r : Scan) (s : State) : (setScan r s).dq = s.dq := rfl
@[simp] theorem setScan_mq (r : Scan) (s : State) : (setScan r s).mq = s.mq := rfl
@[simp] theorem setScan_emitPulse (r : Scan) (s : State) : (setScan r s).emitPulse = s.emitPulse := rfl
@[simp] theorem setScan_abandonPulse (r : Scan) (s : State) : (setScan r s).abandonPulse = s.abandonPulse := rfl
@[simp] theorem setScan_edgeDropPulse (r : Scan) (s : State) : (setScan r s).edgeDropPulse = s.edgeDropPulse := rfl
@[simp] theorem setScan_params (r : Scan) (s : State) : (setScan r s).params = s.params := rfl
@[simp] theorem setScan_inputs (r : Scan) (s : State) : (setScan r s).inputs = s.inputs := rfl
@[simp] theorem setScan_out (r : Scan) (s : State) : (setScan r s).out = s.out := rfl
@[simp] theorem setScan_freeCtr (r : Scan) (s : State) : (setScan r s).freeCtr = s.freeCtr := rfl

@[simp] theorem showPorts_ecs (s : State) : (showPorts s).ecs = s.ecs := rfl
@[simp] theorem showPorts_dec (s : State) : (showPorts s).dec = s.dec := rfl
@[simp] theorem showPorts_decState (s : State) : (showPorts s).decState = s.decState := rfl
@[simp] theorem showPorts_giveupCnt (s : State) : (showPorts s).giveupCnt = s.giveupCnt := rfl
@[simp] theorem showPorts_msgHold (s : State) : (showPorts s).msgHold = s.msgHold := rfl
@[simp] theorem showPorts_faultCode (s : State) : (showPorts s).faultCode = s.faultCode := rfl
@[simp] theorem showPorts_dq (s : State) : (showPorts s).dq = s.dq := rfl
@[simp] theorem showPorts_mq (s : State) : (showPorts s).mq = s.mq := rfl
@[simp] theorem showPorts_emitPulse (s : State) : (showPorts s).emitPulse = s.emitPulse := rfl
@[simp] theorem showPorts_abandonPulse (s : State) : (showPorts s).abandonPulse = s.abandonPulse := rfl
@[simp] theorem showPorts_edgeDropPulse (s : State) : (showPorts s).edgeDropPulse = s.edgeDropPulse := rfl
@[simp] theorem showPorts_params (s : State) : (showPorts s).params = s.params := rfl
@[simp] theorem showPorts_inputs (s : State) : (showPorts s).inputs = s.inputs := rfl
@[simp] theorem showPorts_nets (s : State) : (showPorts s).nets = s.nets := rfl

@[simp] theorem resetBlock_params (s : State) : (resetBlock s).params = s.params := rfl
@[simp] theorem resetBlock_inputs (s : State) : (resetBlock s).inputs = s.inputs := rfl
@[simp] theorem resetBlock_out (s : State) : (resetBlock s).out = s.out := rfl
@[simp] theorem resetBlock_nets (s : State) : (resetBlock s).nets = s.nets := rfl
@[simp] theorem resetBlock_freeCtr (s : State) : (resetBlock s).freeCtr = s.freeCtr := rfl

@[simp] theorem beginCycle_ecs (s : State) : (beginCycle s).ecs = s.ecs := rfl
@[simp] theorem beginCycle_dec (s : State) : (beginCycle s).dec = s.dec := rfl
@[simp] theorem beginCycle_decState (s : State) : (beginCycle s).decState = s.decState := rfl
@[simp] theorem beginCycle_giveupCnt (s : State) : (beginCycle s).giveupCnt = s.giveupCnt := rfl
@[simp] theorem beginCycle_msgHold (s : State) : (beginCycle s).msgHold = s.msgHold := rfl
@[simp] theorem beginCycle_faultCode (s : State) : (beginCycle s).faultCode = s.faultCode := rfl
@[simp] theorem beginCycle_dq (s : State) : (beginCycle s).dq = s.dq := rfl
@[simp] theorem beginCycle_mq (s : State) : (beginCycle s).mq = s.mq := rfl
@[simp] theorem beginCycle_params (s : State) : (beginCycle s).params = s.params := rfl

@[simp] theorem outcome_ecs (r : Consumed) (g : Bool) (s : State) : (outcome r g s).ecs = s.ecs := by unfold outcome; repeat (first | rfl | split)
@[simp] theorem outcome_dec (r : Consumed) (g : Bool) (s : State) : (outcome r g s).dec = s.dec := by unfold outcome; repeat (first | rfl | split)
@[simp] theorem outcome_giveupCnt (r : Consumed) (g : Bool) (s : State) : (outcome r g s).giveupCnt = s.giveupCnt := by unfold outcome; repeat (first | rfl | split)
@[simp] theorem outcome_dq (r : Consumed) (g : Bool) (s : State) : (outcome r g s).dq = s.dq := by unfold outcome; repeat (first | rfl | split)
@[simp] theorem outcome_mq (r : Consumed) (g : Bool) (s : State) : (outcome r g s).mq = s.mq := by unfold outcome; repeat (first | rfl | split)
@[simp] theorem outcome_emitPulse (r : Consumed) (g : Bool) (s : State) : (outcome r g s).emitPulse = s.emitPulse := by unfold outcome; repeat (first | rfl | split)
@[simp] theorem outcome_edgeDropPulse (r : Consumed) (g : Bool) (s : State) : (outcome r g s).edgeDropPulse = s.edgeDropPulse := by unfold outcome; repeat (first | rfl | split)
@[simp] theorem outcome_params (r : Consumed) (g : Bool) (s : State) : (outcome r g s).params = s.params := by unfold outcome; repeat (first | rfl | split)
@[simp] theorem outcome_inputs (r : Consumed) (g : Bool) (s : State) : (outcome r g s).inputs = s.inputs := by unfold outcome; repeat (first | rfl | split)
@[simp] theorem outcome_out (r : Consumed) (g : Bool) (s : State) : (outcome r g s).out = s.out := by unfold outcome; repeat (first | rfl | split)
@[simp] theorem outcome_nets (r : Consumed) (g : Bool) (s : State) : (outcome r g s).nets = s.nets := by unfold outcome; repeat (first | rfl | split)
@[simp] theorem outcome_freeCtr (r : Consumed) (g : Bool) (s : State) : (outcome r g s).freeCtr = s.freeCtr := by unfold outcome; repeat (first | rfl | split)

@[simp] theorem consumeStep_ecs (d : Delta) (g : Bool) (s : State) : (consumeStep d g s).ecs = s.ecs := by simp [consumeStep]
@[simp] theorem consumeStep_giveupCnt (d : Delta) (g : Bool) (s : State) : (consumeStep d g s).giveupCnt = s.giveupCnt := by simp [consumeStep]
@[simp] theorem consumeStep_dq (d : Delta) (g : Bool) (s : State) : (consumeStep d g s).dq = s.dq := by simp [consumeStep]
@[simp] theorem consumeStep_mq (d : Delta) (g : Bool) (s : State) : (consumeStep d g s).mq = s.mq := by simp [consumeStep]
@[simp] theorem consumeStep_emitPulse (d : Delta) (g : Bool) (s : State) : (consumeStep d g s).emitPulse = s.emitPulse := by simp [consumeStep]
@[simp] theorem consumeStep_edgeDropPulse (d : Delta) (g : Bool) (s : State) : (consumeStep d g s).edgeDropPulse = s.edgeDropPulse := by simp [consumeStep]
@[simp] theorem consumeStep_params (d : Delta) (g : Bool) (s : State) : (consumeStep d g s).params = s.params := by simp [consumeStep]
@[simp] theorem consumeStep_inputs (d : Delta) (g : Bool) (s : State) : (consumeStep d g s).inputs = s.inputs := by simp [consumeStep]
@[simp] theorem consumeStep_out (d : Delta) (g : Bool) (s : State) : (consumeStep d g s).out = s.out := by simp [consumeStep]
@[simp] theorem consumeStep_freeCtr (d : Delta) (g : Bool) (s : State) : (consumeStep d g s).freeCtr = s.freeCtr := by simp [consumeStep]

@[simp] theorem pushDq_dq_room {v : Delta} {s : State} (h : s.dq.length < 8) : (pushDq v s).dq = s.dq ++ [v] := by
  simp [pushDq, Config.dqDepth, h]
@[simp] theorem pushMq_mq_room {v : MsgWord} {s : State} (h : s.mq.length < 4) : (pushMq v s).mq = s.mq ++ [v] := by
  simp [pushMq, Config.mqDepth, h]
@[simp] theorem popMq_mq (s : State) : (popMq s).mq = s.mq.tail := by
  unfold popMq; split <;> simp_all
@[simp] theorem raiseFault_faultCode (code : FaultCode) (s : State) : (raiseFault code s).faultCode = code := rfl
@[simp] theorem raiseFault_decState (code : FaultCode) (s : State) : (raiseFault code s).decState = .fault := rfl
@[simp] theorem setScan_nets (r : Scan) (s : State) : (setScan r s).nets = { s.nets with scan := r } := rfl
@[simp] theorem resetBlock_ecs (s : State) : (resetBlock s).ecs = Ecs.reset := rfl
@[simp] theorem resetBlock_dec (s : State) : (resetBlock s).dec = { Decoder.reset with hist := s.dec.hist } := rfl
@[simp] theorem resetBlock_decState (s : State) : (resetBlock s).decState = .idle := rfl
@[simp] theorem resetBlock_giveupCnt (s : State) : (resetBlock s).giveupCnt = 0 := rfl
@[simp] theorem resetBlock_msgHold (s : State) : (resetBlock s).msgHold = 0 := rfl
@[simp] theorem resetBlock_faultCode (s : State) : (resetBlock s).faultCode = .none := rfl
@[simp] theorem resetBlock_dq (s : State) : (resetBlock s).dq = [] := rfl
@[simp] theorem resetBlock_mq (s : State) : (resetBlock s).mq = [] := rfl
@[simp] theorem resetBlock_emitPulse (s : State) : (resetBlock s).emitPulse = false := rfl
@[simp] theorem resetBlock_abandonPulse (s : State) : (resetBlock s).abandonPulse = false := rfl
@[simp] theorem resetBlock_edgeDropPulse (s : State) : (resetBlock s).edgeDropPulse = false := rfl
@[simp] theorem beginCycle_inputs (s : State) : (beginCycle s).inputs = s.inputs.tail := rfl
@[simp] theorem beginCycle_nets (s : State) : (beginCycle s).nets = Nets.idle := rfl
@[simp] theorem beginCycle_emitPulse (s : State) : (beginCycle s).emitPulse = false := rfl
@[simp] theorem beginCycle_abandonPulse (s : State) : (beginCycle s).abandonPulse = false := rfl
@[simp] theorem beginCycle_edgeDropPulse (s : State) : (beginCycle s).edgeDropPulse = false := rfl
@[simp] theorem beginCycle_out (s : State) : (beginCycle s).out = (showPorts s).out := rfl
@[simp] theorem beginCycle_freeCtr (s : State) : (beginCycle s).freeCtr = s.nextFree := rfl
@[simp] theorem consumeStep_dec (d : Delta) (g : Bool) (s : State) : (consumeStep d g s).dec = (consume d s.dec).2 := by
  simp [consumeStep]
@[simp] theorem consumeStep_nets (d : Delta) (g : Bool) (s : State) :
    (consumeStep d g s).nets = { s.nets with scan := scanOf (consume d s.dec).1 } := by
  simp [consumeStep]

end Sys2Proof.Machine
end

