-- ==== Sys2Proof/Laws/Cycle.lean ====
section
/-! SUPPORT. What the parts of a cycle can do, said once: the decode-stage row as the case of R137, the producer's
operations as the case of R137. -/

namespace Sys2Proof.Machine

/-- The first consume of an attempt neither faults nor matches (R115). -/
theorem consume_newAttempt (d : Delta) (c : Decoder) :
    consume d (newAttempt c) = (.none, appendHist d (recover d (newAttempt c))) := by
  have hb : (newAttempt c).lastBit = true := by
    show (1#64).getLsbD 0 = true
    decide
  have hd : detect (recover d (newAttempt c)).sr = .none := by
    rw [recover_sr, hb]
    cases classify d <;> simp only [newAttempt_sr, bitsOfBin] <;> decide
  rw [consume_room (by simp), hd]
  rfl

/-- An optional operation at the head of a list. -/
theorem runOps_if {b : Bool} {i : Instr} {s t : State} (h : b = true → exec i s = .next t) (is : List Instr) :
    runOps ((if b then [i] else []) ++ is) s = runOps is (if b then t else s) := by
  cases b
  · rfl
  · exact runOps_cons (h rfl) is

@[simp] theorem outcomeCase_dec (r : Consumed × Decoder) (g : Bool) (s : State) : (outcomeCase r g s).dec = r.2 := by
  unfold outcomeCase
  split
  · rfl
  · rfl
  · split <;> rfl

@[simp] theorem outcomeCase_giveupCnt (r : Consumed × Decoder) (g : Bool) (s : State) :
    (outcomeCase r g s).giveupCnt = 0 := by
  unfold outcomeCase
  split
  · rfl
  · rfl
  · split <;> rfl

@[simp] theorem outcomeCase_emitPulse (r : Consumed × Decoder) (g : Bool) (s : State) :
    (outcomeCase r g s).emitPulse = s.emitPulse := by
  unfold outcomeCase
  split
  · rfl
  · rfl
  · split <;> rfl

@[simp] theorem outcomeCase_params (r : Consumed × Decoder) (g : Bool) (s : State) :
    (outcomeCase r g s).params = s.params := by
  unfold outcomeCase
  split
  · rfl
  · rfl
  · split <;> rfl

/-- The decode stage's case writes no build parameter. -/
theorem decodeCase_params (p : PortsIn) (s : State) : (decodeCase p s).1.params = s.params := by
  unfold decodeCase
  repeat' split
  all_goals first | rfl | exact outcomeCase_params _ _ _

/-- Everything the selected decode-stage row can do, on a state `u` that agrees with the start-of-cycle state `s` in what
the row reads: the registers of R137's case, its pop and its push, and the nets. -/
theorem exec_deccondRow (p : PortsIn) (s u : State) (hdec : u.dec = s.dec) (hst : u.decState = s.decState)
    (hcnt : u.giveupCnt = s.giveupCnt) (hmsg : u.msgHold = s.msgHold) (hfc : u.faultCode = s.faultCode)
    (hdq : u.dq = s.dq) (hpar : u.params = s.params) (hemit : u.emitPulse = s.emitPulse)
    (habandon : u.abandonPulse = s.abandonPulse) (hmq : s.mq.length < 4 → u.mq.length < 4) :
    ∃ popped scan, exec (deccondRow s.decState s.dqNe (s.expire p.usTick) s.mqNf p.usTick) u = .next
      { u with
        dec := (decodeCase p s).1.dec
        decState := (decodeCase p s).1.decState
        giveupCnt := (decodeCase p s).1.giveupCnt
        msgHold := (decodeCase p s).1.msgHold
        faultCode := (decodeCase p s).1.faultCode
        emitPulse := (decodeCase p s).1.emitPulse
        abandonPulse := (decodeCase p s).1.abandonPulse
        dq := if (decodeCase p s).2.1 then s.dq.tail else s.dq
        mq := u.mq ++ (if (decodeCase p s).2.2 then [s.msgHold] else [])
        nets := { u.nets with popped := popped, scan := scan } } := by
  cases s with | mk ecs dec decState giveupCnt msgHold faultCode dq mq p1 p2 p3 params inputs out nets ctr =>
  cases u with
  | mk ecs' dec' decState' giveupCnt' msgHold' faultCode' dq' mq' p1' p2' p3' params' inputs' out' nets' ctr' =>
  dsimp only at hdec hst hcnt hmsg hfc hdq hpar hemit habandon hmq
  subst hdec hst hcnt hmsg hfc hdq hpar hemit habandon
  cases decState' with
  | idle =>
    cases dq' with
    | nil => exact ⟨_, _, by simp [deccondRow, State.dqNe, exec, execDecIdleWait, decodeCase]; rfl⟩
    | cons d ds =>
      cases hf : params'.feedStartDelta
      · exact ⟨some d, nets'.scan, by simp [deccondRow, State.dqNe, exec, execDecStart, popDq, decodeCase, hf]⟩
      · exact ⟨some d, .none, by
          simp [deccondRow, State.dqNe, exec, execDecStart, popDq, decodeCase, outcomeCase, hf, consumeStep,
            consume_newAttempt d dec', outcome]
          rfl⟩
  | framing =>
    cases dq' with
    | nil =>
      cases ht : p.usTick
      · exact ⟨_, _, by simp [deccondRow, State.dqNe, exec, execDecWait, decodeCase, ht, State.expire]; rfl⟩
      · by_cases hg : giveupCnt'.toNat = 2499
        · have hg' : giveupCnt' = 2499#12 := BitVec.eq_of_toNat_eq hg
          refine ⟨nets'.popped, scanOf (consume (2500#32) dec').1, ?_⟩
          rcases consume_cases (2500#32) dec' with ⟨-, e⟩ | ⟨-, -, e⟩ | ⟨-, w, -, e⟩ <;>
            simp [outcomeCase, deccondRow, State.dqNe, exec, execDecGiveup, decodeCase, ht, State.expire,
              Config.giveupUs, Config.tTimeout, hg', consumeStep, show giveupDelta = 2500#32 from rfl, e, outcome,
              raiseFault]
        · have hg' : ¬ giveupCnt' = 2499#12 := fun h => hg (h ▸ rfl)
          exact ⟨_, _, by
            simp [deccondRow, State.dqNe, exec, execDecWait, decodeCase, ht, State.expire, Config.giveupUs,
              Config.tTimeout, hg, hg']
            rfl⟩
    | cons d ds =>
      refine ⟨some d, scanOf (consume d dec').1, ?_⟩
      rcases consume_cases d dec' with ⟨-, e⟩ | ⟨-, -, e⟩ | ⟨-, w, -, e⟩ <;>
        simp [deccondRow, State.dqNe, exec, execDecConsume, popDq, decodeCase, outcomeCase, consumeStep, e, outcome,
          raiseFault]
  | emit =>
    by_cases hm : mq.length < 4
    · exact ⟨_, _, by simp [deccondRow, State.mqNf, exec, execDecEmit, decodeCase, pushMq, hm, hmq hm]; rfl⟩
    · exact ⟨_, _, by simp [deccondRow, State.mqNf, exec, execDecEmitStall, decodeCase, hm]; rfl⟩
  | fault => exact ⟨_, _, by simp [deccondRow, exec, execDecFaultHold, decodeCase]; rfl⟩

/-- Everything the producer's operations can do, on a state `u` with the capture registers of the start of the cycle and
a DQ that is no longer. -/
theorem runOps_producerOps (p : PortsIn) (s u : State) (hb : s.dq.length ≤ 8) (hecs : u.ecs = s.ecs)
    (hdq : u.dq.length ≤ s.dq.length) :
    runOps (producerOps p s) u =
      .next { u with ecs := (producerCase p s).1, dq := u.dq ++ (producerCase p s).2.2 } := by
  unfold producerOps producerCase
  rw [selected_ecspush, selected_ecsedge, selected_tick1, selected_hsDqPush]
  unfold State.stalled State.dqFull State.dqReady
  cases u with | mk ecs dec decState giveupCnt msgHold faultCode dq mq p1 p2 p3 params inputs out nets ctr =>
  dsimp only at hecs hdq
  subst hecs
  cases s.params.deltaSource with
  | external =>
    by_cases h8 : s.dq.length < 8
    · have h9 : dq.length < 8 := by omega
      cases p.dqWrValid <;> simp [h8, h9, runOps, exec, execDqPush, pushDq]
    · cases p.dqWrValid <;> simp [h8, runOps]
  | ecs =>
    by_cases h8 : s.dq.length = 8
    · cases hh : s.ecs.holdValid <;> cases p.edge <;> cases p.usTick <;>
        simp [h8, hh, runOps, exec, execEcsEdge, execEcsTick]
      all_goals rw [← hh]
    · have h9 : s.dq.length < 8 := by omega
      have h10 : dq.length < 8 := by omega
      cases hh : s.ecs.holdValid <;> cases p.edge <;> cases p.usTick <;>
        simp [h8, h9, h10, hh, runOps, exec, execEcsEdge, execEcsTick, execEcsPush, pushDq, State.dqReady]
      rw [← hh]

end Sys2Proof.Machine
end

