-- ==== Sys2Proof/Laws/PerInstr.lean ====
section
/-! SUPPORT. Laws of every operation, one lemma for each constructor: its encoding is a word of its format, with no bit
set above the format's width. -/

/-- The encoding of an operation fits its format. -/
def Sys2Proof.Laws.EncodeWidth.Statement (i : Sys2Proof.Instr) : Prop :=
  (Sys2Proof.encode i).2.toNat < 2 ^ (Sys2Proof.encode i).1.width

namespace Sys2Proof.Laws.EncodeWidth

open Sys2Proof

theorem clsGlitch : Statement .clsGlitch := by unfold Statement; decide
theorem clsRepeat : Statement .clsRepeat := by unfold Statement; decide
theorem clsAmbig : Statement .clsAmbig := by unfold Statement; decide
theorem clsDouble : Statement .clsDouble := by unfold Statement; decide
theorem clsIdle : Statement .clsIdle := by unfold Statement; decide
theorem fdMatch5 (src dest p0 p1 p2 p3 p4 : Byte) : Statement (.fdMatch5 src dest p0 p1 p2 p3 p4) := BitVec.isLt _
theorem fdMatch4 (b0 src dest p0 p1 p2 p3 : Byte) : Statement (.fdMatch4 b0 src dest p0 p1 p2 p3) := BitVec.isLt _
theorem fdMatch3 (b0 b1 src dest p0 p1 p2 : Byte) : Statement (.fdMatch3 b0 b1 src dest p0 p1 p2) := BitVec.isLt _
theorem fdMatch2 (b0 b1 b2 src dest p0 p1 : Byte) : Statement (.fdMatch2 b0 b1 b2 src dest p0 p1) := BitVec.isLt _
theorem fdMatch1 (b0 b1 b2 b3 src dest p0 : Byte) : Statement (.fdMatch1 b0 b1 b2 b3 src dest p0) := BitVec.isLt _
theorem fdNone (b0 b1 b2 b3 b4 b5 b6 b7 : Byte) : Statement (.fdNone b0 b1 b2 b3 b4 b5 b6 b7) := BitVec.isLt _
theorem decIdleWait : Statement .decIdleWait := by unfold Statement; decide
theorem decStart : Statement .decStart := by unfold Statement; decide
theorem decWait (tick : Bool) : Statement (.decWait tick) := by unfold Statement; cases tick <;> decide
theorem decGiveup : Statement .decGiveup := by unfold Statement; decide
theorem decConsume : Statement .decConsume := by unfold Statement; decide
theorem decEmitStall : Statement .decEmitStall := by unfold Statement; decide
theorem decEmit : Statement .decEmit := by unfold Statement; decide
theorem decFaultHold : Statement .decFaultHold := by unfold Statement; decide
theorem ecsEdge : Statement .ecsEdge := by unfold Statement; decide
theorem ecsDrop : Statement .ecsDrop := by unfold Statement; decide
theorem ecsPush : Statement .ecsPush := by unfold Statement; decide
theorem ecsTick : Statement .ecsTick := by unfold Statement; decide
theorem dqPush (data : Delta) : Statement (.dqPush data) := Nat.lt_of_not_le (Machine.hsData_not_wide data 0b11)
theorem dqPop : Statement .dqPop := by unfold Statement; decide
theorem mqPush : Statement .mqPush := by unfold Statement; decide
theorem mqPop : Statement .mqPop := by unfold Statement; decide
theorem histRd (addr : BitVec 6) : Statement (.histRd addr) := by unfold Statement; revert addr; decide
theorem statusRd : Statement .statusRd := by unfold Statement; decide
theorem reset : Statement .reset := by unfold Statement; decide

end Sys2Proof.Laws.EncodeWidth
end

