-- ==== Sys2Proof/Tests/Slice0.lean ====
section
/-! SUPPORT. The model's own tests. Expected values come from the tables of 30_encoding.md and from the vectors of
95_test_vectors.md (their ids stand in the comments); then one witness for each obligation that has hypotheses. -/

namespace Sys2Proof.Tests

open Sys2Proof Sys2Proof.Machine

/-! ### WellFormed: an ill-formed operation for each check -/

theorem test_wf_match4_byte0 : (Instr.fdMatch4 0xE5 1 2 3 4 5 6).wf = false := by decide
theorem test_wf_match3_byte0 : (Instr.fdMatch3 0xE5 0 1 2 3 4 5).wf = false := by decide
theorem test_wf_match3_byte1 : (Instr.fdMatch3 0 0xE4 1 2 3 4 5).wf = false := by decide
theorem test_wf_match2_byte0 : (Instr.fdMatch2 0xE5 0 0 1 2 3 4).wf = false := by decide
theorem test_wf_match2_byte1 : (Instr.fdMatch2 0 0xE4 0 1 2 3 4).wf = false := by decide
theorem test_wf_match2_byte2 : (Instr.fdMatch2 0 0 0xE3 1 2 3 4).wf = false := by decide
theorem test_wf_match1_byte0 : (Instr.fdMatch1 0xE5 0 0 0 1 2 3).wf = false := by decide
theorem test_wf_match1_byte1 : (Instr.fdMatch1 0 0xE4 0 0 1 2 3).wf = false := by decide
theorem test_wf_match1_byte2 : (Instr.fdMatch1 0 0 0xE3 0 1 2 3).wf = false := by decide
theorem test_wf_match1_byte3 : (Instr.fdMatch1 0 0 0 0xE2 1 2 3).wf = false := by decide
theorem test_wf_none_byte0 : (Instr.fdNone 0xE5 0 0 0 0 0 0 1).wf = false := by decide
theorem test_wf_none_byte1 : (Instr.fdNone 0 0xE4 0 0 0 0 0 1).wf = false := by decide
theorem test_wf_none_byte2 : (Instr.fdNone 0 0 0xE3 0 0 0 0 1).wf = false := by decide
theorem test_wf_none_byte3 : (Instr.fdNone 0 0 0 0xE2 0 0 0 1).wf = false := by decide
theorem test_wf_none_byte4 : (Instr.fdNone 0 0 0 0 0xE1 0 0 1).wf = false := by decide
/-- A marker at another row's offset is no marker (V-D6, V-D9). -/
theorem test_wf_other_offset :
    (Instr.fdNone 0xE1 0 0 0 0 0 0 0xE5).wf = true ∧ (Instr.fdNone 0 0xE5 0 0 0 0 0 0).wf = true := by decide

/-! ### Decode: the words of the tables of 30_encoding.md -/

theorem test_decode_bin3 :
    decode .bin3 0b000 = .ok .clsGlitch ∧ decode .bin3 0b001 = .ok .clsRepeat ∧ decode .bin3 0b010 = .ok .clsAmbig ∧
    decode .bin3 0b011 = .ok .clsDouble ∧ decode .bin3 0b100 = .ok .clsIdle := by decide
theorem test_decode_bin3_reserved :
    decode .bin3 0b101 = .error .reservedBin ∧ decode .bin3 0b110 = .error .reservedBin ∧
    decode .bin3 0b111 = .error .reservedBin ∧ decode .bin3 0b1000 = .error .tooWide := by decide
theorem test_decode_match5 :
    decode .sr64 0xE511223344556677 = .ok (.fdMatch5 0x11 0x22 0x33 0x44 0x55 0x66 0x77) := by decide
theorem test_decode_match4 :
    decode .sr64 0x00E4A1B2CAFEBABE = .ok (.fdMatch4 0x00 0xA1 0xB2 0xCA 0xFE 0xBA 0xBE) := by decide
theorem test_decode_match3 :
    decode .sr64 0x0000E30910010203 = .ok (.fdMatch3 0 0 0x09 0x10 0x01 0x02 0x03) := by decide
theorem test_decode_match2 :
    decode .sr64 0x000001E2FF000055 = .ok (.fdMatch2 0 0 0x01 0xFF 0x00 0x00 0x55) := by decide
theorem test_decode_match1 :
    decode .sr64 0x00000001E100082A = .ok (.fdMatch1 0 0 0 0x01 0x00 0x08 0x2A) := by decide
theorem test_decode_none :
    decode .sr64 0xE1000000000000E5 = .ok (.fdNone 0xE1 0 0 0 0 0 0 0xE5) := by decide
/-- V-D7, V-D8: the longer frame wins. -/
theorem test_decode_priority :
    decode .sr64 0xE500000000E10000 = .ok (.fdMatch5 0 0 0 0 0xE1 0 0) ∧
    decode .sr64 0xE5E4E3E2E1000000 = .ok (.fdMatch5 0xE4 0xE3 0xE2 0xE1 0 0 0) := by decide
theorem test_decode_deccond_idle :
    decode .deccond 0b000000 = .ok .decIdleWait ∧ decode .deccond 0b000111 = .ok .decIdleWait ∧
    decode .deccond 0b001000 = .ok .decStart ∧ decode .deccond 0b001101 = .ok .decStart := by decide
theorem test_decode_deccond_framing :
    decode .deccond 0b010000 = .ok (.decWait false) ∧ decode .deccond 0b010001 = .ok (.decWait true) ∧
    decode .deccond 0b010101 = .ok .decGiveup ∧ decode .deccond 0b011101 = .ok .decConsume := by decide
theorem test_decode_deccond_emit_fault :
    decode .deccond 0b101101 = .ok .decEmitStall ∧ decode .deccond 0b100010 = .ok .decEmit ∧
    decode .deccond 0b111111 = .ok .decFaultHold := by decide
theorem test_decode_ecs :
    decode .ecsedge 0b10 = .ok .ecsEdge ∧ decode .ecsedge 0b11 = .ok .ecsDrop ∧ decode .ecsedge 0b01 = .error .noRow ∧
    decode .ecspush 0b10 = .ok .ecsPush ∧ decode .ecspush 0b11 = .error .noRow ∧
    decode .tick1 0b1 = .ok .ecsTick ∧ decode .tick1 0b0 = .error .noRow := by decide
theorem test_decode_hs :
    decode .hsDqPush 0xFA3 = .ok (.dqPush 1000) ∧ decode .hsDqPop 0b11 = .ok .dqPop ∧
    decode .hsMqPush 0b11 = .ok .mqPush ∧ decode .hsMqPop 0b11 = .ok .mqPop ∧
    decode .hsMqPop 0b01 = .error .noRow ∧ decode .hsMqPop 0b10 = .error .noRow := by decide
theorem test_decode_port_rst :
    decode .portHist 26 = .ok (.histRd 26) ∧ decode .portStatus 0 = .ok .statusRd ∧
    decode .rst1 0b1 = .ok .reset ∧ decode .rst1 0b0 = .error .noRow := by decide
theorem test_decode_table_words :
    decodeTableWord 8 0b011 = some .clsDouble ∧ decodeTableWord 8 0b100010 = some .decEmit ∧
    decodeTableWord 64 0xE511223344556677 = some (.fdMatch5 0x11 0x22 0x33 0x44 0x55 0x66 0x77) := by decide
theorem test_encode_words :
    encode (.fdMatch3 0 0 0x09 0x10 0x01 0x02 0x03) = (.sr64, 0x0000E30910010203) ∧
    encode (.decWait true) = (.deccond, 0b010001) ∧ encode (.dqPush 1000) = (.hsDqPush, 0xFA3) := by decide

/-! ### Meanings: the vectors of 95_test_vectors.md -/

/-- A field of the next state, or nothing when the operation stops. -/
def after {α : Type} (r : Result) (f : State → α) : Option α :=
  match r with
  | .next s => some (f s)
  | _ => none

/-- The state after reset with a shift register and a bit count. -/
def withSr (sr : ShiftReg) (bc : BitVec 8) : State :=
  { State.reset with dec := { Decoder.reset with sr := sr, bitCount := bc } }

/-- The state after reset with a given state of the Decode Stage, the deltas waiting and the decoder's registers. -/
def decodeState (st : DecState) (dq : List Delta) (sr : ShiftReg) (bc : BitVec 8) (hl : BitVec 7) : State :=
  { State.reset with decState := st, dq := dq, dec := { Decoder.reset with sr := sr, bitCount := bc, histLen := hl } }

/-- SR and BIT_COUNT. -/
def srBc (s : State) : ShiftReg × BitVec 8 := (s.dec.sr, s.dec.bitCount)

/-- V-R11 -/
theorem test_glitch : after (exec .clsGlitch (withSr 0x1E100082A 32)) srBc = some (0x1E100082A, 32) := by decide
/-- V-R1, V-R2, V-R12 -/
theorem test_repeat :
    after (exec .clsRepeat (withSr 0x1 0)) srBc = some (0x3, 1) ∧
    after (exec .clsRepeat (withSr 0x2 5)) srBc = some (0x4, 6) ∧
    after (exec .clsRepeat (withSr 0x8000000000000001 63)) srBc = some (0x3, 64) := by decide
/-- V-R4, V-R5, V-R14 -/
theorem test_ambig :
    after (exec .clsAmbig (withSr 0x2 1)) srBc = some (0x5, 2) ∧
    after (exec .clsAmbig (withSr 0x3 1)) srBc = some (0xC, 3) ∧
    after (exec .clsAmbig (withSr 0xC000000000000001 64)) srBc = some (0x4, 66) := by decide
/-- V-R6, V-R7, V-R13 -/
theorem test_double :
    after (exec .clsDouble (withSr 0x1 0)) srBc = some (0x5, 2) ∧
    after (exec .clsDouble (withSr 0x2 1)) srBc = some (0x9, 3) ∧
    after (exec .clsDouble (withSr 0xC000000000000000 64)) srBc = some (0x1, 66) := by decide
/-- V-R9, V-R15 -/
theorem test_idle :
    after (exec .clsIdle (withSr 0x3 1)) srBc = some (0x6, 2) ∧
    after (exec .clsIdle (withSr 0xFFFFFFFFFFFFFFFF 100)) srBc = some (0xFFFFFFFFFFFFFFFE, 101) := by decide
/-- V-C4, V-C5, V-C7, V-C8, V-C11, V-C12, V-C15, V-C16, V-C22 -/
theorem test_classify :
    [750, 751, 1250, 1251, 1750, 1751, 2250, 2251, 0xFFFFFFFF].map classify =
      [Bin.glitch, .repeat1, .repeat1, .ambig, .ambig, .double, .double, .idle, .idle] := by decide

/-- V-D1 -/
theorem test_match5 :
    after (exec (.fdMatch5 0x11 0x22 0x33 0x44 0x55 0x66 0x77) State.reset) (·.nets.scan) =
      some (.found 0x0511223344556677) := by decide
/-- V-D2 -/
theorem test_match4 :
    after (exec (.fdMatch4 0 0xA1 0xB2 0xCA 0xFE 0xBA 0xBE) State.reset) (·.nets.scan) =
      some (.found 0x04A1B2CAFEBABE00) := by decide
/-- V-D3 -/
theorem test_match3 :
    after (exec (.fdMatch3 0 0 0x09 0x10 0x01 0x02 0x03) State.reset) (·.nets.scan) =
      some (.found 0x0309100102030000) := by decide
/-- V-D4 -/
theorem test_match2 :
    after (exec (.fdMatch2 0 0 1 0xFF 0x00 0x00 0x55) State.reset) (·.nets.scan) =
      some (.found 0x02FF000055000000) := by decide
/-- V-D5 -/
theorem test_match1 :
    after (exec (.fdMatch1 0 0 0 1 0x00 0x08 0x2A) State.reset) (·.nets.scan) = some (.found 0x0100082A00000000) := by
  decide
/-- V-D6 -/
theorem test_none : after (exec (.fdNone 0xE1 0 0 0 0 0 0 0xE5) State.reset) (·.nets.scan) = some .none := by decide
/-- V-D8, V-D11, V-D12, V-D15 -/
theorem test_detect :
    detect 0xE5E4E3E2E1000000 = .found 0x05E4E3E2E1000000 ∧ detect 0x00000000E6000000 = .none ∧ detect 1 = .none ∧
    detect 0xFFE4000000000000 = .found 0x0400000000000000 := by decide
/-- Section 4, the field check of V-D8. -/
theorem test_fields :
    msgLen 0x05E4E3E2E1000000 = 5 ∧ typeOf (msgSrc 0x05E4E3E2E1000000) = 0x1C ∧
    addrOf (msgSrc 0x05E4E3E2E1000000) = 4 ∧ typeOf (msgDest 0x05E4E3E2E1000000) = 0x1C ∧
    addrOf (msgDest 0x05E4E3E2E1000000) = 3 ∧ msgPayload 0x05E4E3E2E1000000 1 = 0xE1 := by decide

/-- V-S1 -/
theorem test_idle_wait : exec .decIdleWait State.reset = .next State.reset := rfl
/-- V-S2 -/
theorem test_start :
    after (exec .decStart (decodeState .idle [40000] 0x1E100082A 32 27)) srBc = some (0x1, 0) ∧
    after (exec .decStart (decodeState .idle [40000] 0x1E100082A 32 27))
      (fun s => (s.decState, s.dq, s.dec.histLen)) = some (.framing, [], 0) := by decide
/-- V-S3 -/
theorem test_start_fed :
    after (exec .decStart { decodeState .idle [40000] 0x1 32 27 with
      params := { feedStartDelta := true, deltaSource := .external } })
      (fun s => (srBc s, s.dec.histLen, s.dec.hist.read 0)) = some ((0x2, 1), 1, 40000) := by decide
/-- V-S4, V-F3 -/
theorem test_consume :
    after (exec .decConsume { decodeState .framing [1000] 0x1 0 0 with giveupCnt := 100 })
      (fun s => (srBc s, s.dec.histLen, s.giveupCnt)) = some ((0x3, 1), 1, 0) ∧
    after (exec .decConsume (decodeState .framing [2300] 0xF0800415 31 26))
      (fun s => (srBc s, s.decState, s.msgHold)) = some ((0x1E100082A, 32), .emit, 0x0100082A00000000) := by decide
/-- V-S15 -/
theorem test_consume_overflow :
    after (exec .decConsume (decodeState .framing [1000] 0xFFFFFFFFFFFFFFFF 64 64))
      (fun s => (srBc s, s.decState, s.faultCode, s.dq)) =
      some ((0xFFFFFFFFFFFFFFFF, 64), .fault, .histOvf, []) := by decide
/-- V-S5, V-S6 -/
theorem test_wait :
    after (exec (.decWait true) { decodeState .framing [] 1 0 0 with giveupCnt := 7 }) (·.giveupCnt) = some 8 ∧
    after (exec (.decWait false) { decodeState .framing [] 1 0 0 with giveupCnt := 7 }) (·.giveupCnt) = some 7 := by
  decide
/-- V-S7 -/
theorem test_giveup :
    after (exec .decGiveup { decodeState .framing [] 1 0 3 with giveupCnt := 2499 })
      (fun s => (s.decState, srBc s, s.dec.hist.read 3, s.abandonPulse, s.giveupCnt)) =
      some (.idle, (0x2, 1), 2500, true, 0) := by decide
/-- V-S8 -/
theorem test_giveup_match :
    after (exec .decGiveup { decodeState .framing [] 0xF0800415 31 26 with giveupCnt := 2499 })
      (fun s => (s.decState, s.msgHold, s.abandonPulse)) = some (.emit, 0x0100082A00000000, false) := by decide
/-- V-S11 -/
theorem test_emit :
    after (exec .decEmit { decodeState .emit [] 1 0 0 with msgHold := 0x0100082A00000000 })
      (fun s => (s.decState, s.mq, s.emitPulse)) = some (.idle, [0x0100082A00000000], true) := by decide
/-- V-S12 -/
theorem test_emit_stall (s : State) : exec .decEmitStall s = .next s := rfl
/-- V-S14 -/
theorem test_fault_hold (s : State) : exec .decFaultHold s = .next s := rfl

/-- The state after reset with given capture registers. -/
def captureState (now prev : Stamp) (hold : Bool) (delta : Delta) (dq : List Delta) : State :=
  { State.reset with ecs := { now := now, prevTs := prev, holdValid := hold, holdDelta := delta }, dq := dq }

/-- V-E2, V-E8, V-E9 -/
theorem test_edge :
    after (exec .ecsEdge (captureState 2800 1000 false 0 [])) (·.ecs) =
      some { now := 2800, prevTs := 2800, holdValid := true, holdDelta := 1800 } ∧
    after (exec .ecsEdge (captureState (2 ^ 32 + 5) 0 false 0 [])) (·.ecs.holdDelta) = some 0xFFFFFFFF ∧
    after (exec .ecsEdge (captureState 5 (-10) false 0 [])) (·.ecs.holdDelta) = some 15 := by decide
/-- V-E6 -/
theorem test_drop :
    exec .ecsDrop (captureState 2000 1000 true 1800 [1, 2, 3, 4, 5, 6, 7, 8]) =
      .next { captureState 2000 1000 true 1800 [1, 2, 3, 4, 5, 6, 7, 8] with edgeDropPulse := true } := rfl
/-- V-E4 -/
theorem test_push :
    after (exec .ecsPush (captureState 0 0 true 1800 [1, 2, 3])) (fun s => (s.dq, s.ecs.holdValid)) =
      some ([1, 2, 3, 1800], false) := by decide
/-- V-E1, V-E10 -/
theorem test_tick :
    after (exec .ecsTick (captureState 41 0 false 0 [])) (·.ecs.now) = some 42 ∧
    after (exec .ecsTick (captureState (-1) 0 false 0 [])) (·.ecs.now) = some 0 := by decide
/-- V-Q1 -/
theorem test_dq_push :
    after (exec (.dqPush 1000) { State.reset with dq := [1, 2, 3, 4, 5, 6, 7] }) (·.dq) =
      some [1, 2, 3, 4, 5, 6, 7, 1000] := by decide
theorem test_dq_pop :
    after (exec .dqPop { State.reset with dq := [1, 2] }) (fun s => (s.dq, s.nets.popped)) = some ([2], some 1) := by
  decide
theorem test_mq_push :
    after (exec .mqPush { State.reset with mq := [1, 2], msgHold := 5 }) (·.mq) = some [1, 2, 5] := by decide
/-- V-Q5 -/
theorem test_mq_pop :
    after (exec .mqPop { State.reset with mq := [0x0100082A00000000] }) (fun s => (s.mq, s.nets.taken)) =
      some ([], some 0x0100082A00000000) := by decide
theorem test_hist_rd :
    after (exec (.histRd 26) { State.reset with dec := { Decoder.reset with hist := { cells := [(26, 2300)] } } })
      (·.out.histRdData) = some 2300 := by decide
/-- V-P1 -/
theorem test_status_rd :
    after (exec .statusRd { decodeState .framing [1, 2] 1 7 5 with mq := [1] }) (·.out.status) =
      some 0x00385049 := by decide
/-- V-P2, V-P3 -/
theorem test_status_word :
    (decodeState .idle [] 1 32 27).statusWord = 0x0101B000 ∧
    { decodeState .fault [] 1 64 64 with faultCode := .histOvf }.statusWord = 0x02040403 := by decide
/-- V-X3 -/
theorem test_reset :
    after (exec .reset { captureState 9 8 true 7 [6] with decState := .fault, faultCode := .histOvf, mq := [5] })
      (fun s => (s.ecs, s.decState, s.faultCode, s.dq, s.mq)) = some (Ecs.reset, .idle, .none, [], []) := by decide

/-! ### Cycles -/

/-- A state with the inputs of its next cycle. -/
def feed (p : PortsIn) (s : State) : State := { s with inputs := [p] }

/-- A block fed through its external port. -/
def viaPort (s : State) : State := { s with params := { s.params with deltaSource := .external } }

/-- V-E5: the push and the capture of one cycle. -/
theorem test_cycle_push_and_edge :
    after (step (feed { PortsIn.low with edge := true }
      { captureState 3000 1000 true 1800 [1, 2, 3] with decState := .emit })) (fun s => (s.dq, s.ecs)) =
      some ([1, 2, 3, 1800], { now := 3000, prevTs := 3000, holdValid := true, holdDelta := 2000 }) := by decide
/-- V-E3: an edge measures against NOW as the cycle began. -/
theorem test_cycle_edge_and_tick :
    after (step (feed { PortsIn.low with edge := true, usTick := true } (captureState 2800 1000 false 0 [])))
      (·.ecs) = some { now := 2801, prevTs := 2800, holdValid := true, holdDelta := 1800 } := by decide
/-- V-Q3: a pop frees no room for a push in the same cycle. -/
theorem test_cycle_full_queue :
    after (step (feed { PortsIn.low with dqWrValid := true, dqWrData := 1500 }
      (viaPort (decodeState .framing (List.replicate 8 1000) 1 0 0)))) (·.dq) = some (List.replicate 7 1000) := by decide
/-- V-Q4: a pushed delta is not popped in its cycle. -/
theorem test_cycle_no_fall_through :
    after (step (feed { PortsIn.low with dqWrValid := true, dqWrData := 1500 }
      (viaPort (decodeState .framing [] 1 0 0)))) (fun s => (s.dq, s.dec.histLen)) = some ([1500], 0) := by decide
/-- V-Q7, V-Q8: the Consumer's pop and the Decode Stage's push of one cycle. -/
theorem test_cycle_consumer :
    after (step (feed { PortsIn.low with mqRdReady := true }
      { decodeState .emit [] 1 0 0 with msgHold := 5, mq := [1, 2, 3, 4] }))
      (fun s => (s.mq, s.nets.taken, s.decState)) = some ([2, 3, 4], some 1, .emit) ∧
    after (step (feed { PortsIn.low with mqRdReady := true }
      { decodeState .emit [] 1 0 0 with msgHold := 5, mq := [1, 2] }))
      (fun s => (s.mq, s.nets.taken, s.decState, s.emitPulse)) = some ([2, 5], some 1, .idle, true) := by decide
/-- V-S9: a delta in DQ beats the give-up. -/
theorem test_cycle_delta_beats_giveup :
    after (step (feed { PortsIn.low with usTick := true }
      { viaPort (decodeState .framing [1000] 1 0 0) with giveupCnt := 2499 }))
      (fun s => (srBc s, s.dec.histLen, s.giveupCnt)) = some ((0x3, 1), 1, 0) := by decide
/-- R161: `rst` overrides everything; the output ports still show the cycle's start. -/
theorem test_cycle_reset :
    after (step (feed { PortsIn.low with rst := true, edge := true, usTick := true }
      { captureState 9 8 true 7 [6] with decState := .fault, faultCode := .histOvf }))
      (fun s => (s.ecs, s.decState, s.dq, s.out.fault)) = some (Ecs.reset, .idle, [], true) := by decide

/-! ### The word placed for the very next cycle -/

theorem test_fetch_repeat :
    after (step (State.reset.withFetchWord 8 0b001)) (fun s => (srBc s, s.decState)) = some ((0x3, 1), .framing) := by
  decide
theorem test_fetch_match1 :
    after (step (State.reset.withFetchWord 64 0x00000001E100082A)) (fun s => (s.decState, s.msgHold)) =
      some (.emit, 0x0100082A00000000) := by decide
theorem test_fetch_giveup :
    after (step (State.reset.withFetchWord 8 0b010100)) (fun s => (s.decState, s.abandonPulse)) =
      some (.idle, true) := by decide
theorem test_fetch_emit :
    after (step (State.reset.withFetchWord 8 0b100010)) (fun s => (s.decState, s.mq.length)) = some (.idle, 1) := by
  decide

/-! ### Witnesses: a concrete state and operands for the hypotheses of each obligation -/

/-- The frame E1 00 08 2A (P1) and its deltas by the reference encoder. -/
def sampleBits : List Bool := [0xE1, 0x00, 0x08, 0x2A].flatMap bitsOf
/-- The deltas of P1 (95_test_vectors.md section 1.1). -/
def sampleDeltas : List Delta := refEncode true sampleBits

theorem witness_ResetOverridesTheCycle : (feed { PortsIn.low with rst := true } State.reset).pin.rst = true := rfl

theorem witness_StatusFieldsStandAtTheirBits :
    ({ State.reset with dq := List.replicate 8 1, mq := List.replicate 4 1 }).dq.length ≤ 8 ∧
    ({ State.reset with dq := List.replicate 8 1, mq := List.replicate 4 1 }).mq.length ≤ 4 := by decide

theorem witness_DecodeOfEncodeIsTheOperation :
    (Instr.fdNone 0xE4 0xE5 0xE2 0xE3 0xE0 0 0 1).wf = true ∧ (Instr.fdMatch1 0xE4 0 0 0xE1 0 8 0x2A).wf = true := by decide

theorem witness_GlitchRecoversNothing : (750 : Delta).toNat ≤ 750 := by decide
theorem witness_RepeatShiftsInLastBit :
    (750 < (751 : Delta).toNat ∧ (751 : Delta).toNat ≤ 1250) ∧ (750 < (1250 : Delta).toNat ∧ (1250 : Delta).toNat ≤ 1250) := by
  decide
/-- After a 1 and after a 0, at both ends of the range. -/
theorem witness_AmbigInvertsLastBit :
    (1250 < (1251 : Delta).toNat ∧ (1251 : Delta).toNat ≤ 1750 ∧ (withSr 1 0).dec.lastBit = true) ∧
    (1250 < (1750 : Delta).toNat ∧ (1750 : Delta).toNat ≤ 1750 ∧ (withSr 2 1).dec.lastBit = false) := by decide
theorem witness_DoubleShiftsInZeroOne :
    (1750 < (1751 : Delta).toNat ∧ (1751 : Delta).toNat ≤ 2250) ∧ (1750 < (2250 : Delta).toNat ∧ (2250 : Delta).toNat ≤ 2250) := by
  decide
theorem witness_IdleShiftsInZero : 2250 < (2251 : Delta).toNat ∧ 2250 < (0xFFFFFFFF : Delta).toNat := by decide

/-- One shift register for each payload length. -/
theorem witness_DetectedMessageFields :
    detect 0xE511223344556677 = .found 0x0511223344556677 ∧ detect 0x00E4A1B2CAFEBABE = .found 0x04A1B2CAFEBABE00 ∧
    detect 0x0000E30910010203 = .found 0x0309100102030000 ∧ detect 0x000001E2FF000055 = .found 0x02FF000055000000 ∧
    detect 0x00000001E100082A = .found 0x0100082A00000000 := by decide

/-- The last entry with room, a delta that matches there (V-F4), and one that does not. -/
theorem witness_ConsumeRecoversScansAppends :
    (decodeState .framing [] 0xF0800415 31 63).dec.histLen.toNat < 64 ∧
    (decodeState .framing [] 0xF0800415 31 63).dec.hist.wf = true ∧
    (consume 2300 (decodeState .framing [] 0xF0800415 31 63).dec).1 = .found 0x0100082A00000000 ∧
    (consume 1000 (decodeState .framing [] 1 0 0).dec).1 = .none := by decide

theorem witness_GlitchesRecoverNoBits :
    (∀ d ∈ List.replicate 64 (750 : Delta), d.toNat ≤ 750) ∧ (List.replicate 64 (750 : Delta)).length ≤ 64 := by
  refine ⟨fun d h => ?_, by decide⟩
  rw [List.eq_of_mem_replicate h]
  decide

/-- Each row of R62's table at a value its mask leaves free bits in. -/
theorem witness_DeccondRowsPartition :
    (0b000111 : BitVec 6) &&& 0b111000 = 0b000000 ∧ (0b001111 : BitVec 6) &&& 0b111000 = 0b001000 ∧
    (0b010011 : BitVec 6) &&& 0b111100 = 0b010000 ∧ (0b010111 : BitVec 6) &&& 0b111100 = 0b010100 ∧
    (0b011111 : BitVec 6) &&& 0b111000 = 0b011000 ∧ (0b101101 : BitVec 6) &&& 0b110010 = 0b100000 ∧
    (0b101111 : BitVec 6) &&& 0b110010 = 0b100010 ∧ (0b111111 : BitVec 6) &&& 0b110000 = 0b110000 := by decide

/-- For each clause: a full attempt without an answer with its last entry, and a short one with its first free entry. -/
theorem witness_AttemptConsumesAtMostSixtyFour :
    (Decoder.reset.hist.wf = true ∧ 63 < (attempt (List.replicate 64 0) (newAttempt Decoder.reset)).2.histLen.toNat) ∧
    (attempt [1000] (newAttempt Decoder.reset)).2.histLen.toNat ≤ (1 : BitVec 6).toNat ∧
    (attempt (List.replicate 64 0) (newAttempt Decoder.reset)).1 = .none ∧ (List.replicate 64 (0 : Delta)).length = 64 ∧
    (attempt [1000] (newAttempt Decoder.reset)).1 = .none := by decide

theorem witness_RepeatsOverflowTheHistory : (64 : Nat) ≤ 64 := by decide

theorem witness_NoMatchBeforeSixteenConsumes : (List.replicate 15 (2000 : Delta)).length < 16 := by decide

theorem noGlitch_of_all {ds : List Delta} (h : ds.all (fun d => classify d != .glitch) = true) :
    ∀ d ∈ ds, classify d ≠ .glitch := by
  simpa using h

theorem witness_FramesRoundTripUnlessMisread :
    1 ≤ [(0x2A : Byte)].length ∧ [(0x2A : Byte)].length ≤ 5 ∧ (∀ d ∈ sampleDeltas, classify d ≠ .glitch) ∧
    recoveredBits true sampleDeltas =
      (markerOf (BitVec.ofNat 8 [(0x2A : Byte)].length) :: 0x00 :: 0x08 :: [(0x2A : Byte)]).flatMap bitsOf :=
  ⟨by decide, by decide, noGlitch_of_all (by decide), by decide⟩

/-- The longest frame that always comes through. -/
theorem witness_ShortFramesRoundTrip :
    1 ≤ [(0x2A : Byte), 0xE1].length ∧ [(0x2A : Byte), 0xE1].length ≤ 2 ∧
    (∀ d ∈ refEncode true ([0xE2, 0x00, 0x08, 0x2A, 0xE1].flatMap bitsOf), classify d ≠ .glitch) ∧
    recoveredBits true (refEncode true ([0xE2, 0x00, 0x08, 0x2A, 0xE1].flatMap bitsOf)) =
      (markerOf (BitVec.ofNat 8 [(0x2A : Byte), 0xE1].length) :: 0x00 :: 0x08 :: [(0x2A : Byte), 0xE1]).flatMap bitsOf :=
  ⟨by decide, by decide, noGlitch_of_all (by decide), by decide⟩

/-- P1's deltas are the encoder's (95_test_vectors.md, P1). -/
theorem test_encoder :
    sampleDeltas = [1000, 1000, 1000, 1500, 1000, 1000, 1500, 1500, 1000, 1000, 1000, 1000, 1000, 1000, 1000, 1000,
      1000, 1000, 1500, 1500, 1000, 1000, 1000, 1500, 2000, 2000, 2300] := by decide

theorem witness_StartDiscardsTheStartDelta :
    (decodeState .idle [40000, 7] 0x1E100082A 32 27).decState = .idle ∧
    (decodeState .idle [40000, 7] 0x1E100082A 32 27).dq = 40000 :: [7] ∧
    (decodeState .idle [40000, 7] 0x1E100082A 32 27).params.feedStartDelta = false := by decide
theorem witness_StartFeedsTheStartDelta :
    let s := { decodeState .idle [40000] 1 0 0 with params := { feedStartDelta := true, deltaSource := .ecs } }
    s.decState = .idle ∧ s.dq = 40000 :: [] ∧ s.params.feedStartDelta = true := by decide
/-- At the last entry with room: a delta that matches, and one that does not. -/
theorem witness_ConsumeRowOutcome :
    (let s := decodeState .framing [2300] 0xF0800415 31 63
     s.decState = .framing ∧ s.dq = 2300 :: [] ∧ s.dec.histLen.toNat < 64 ∧
       detect (recover 2300 s.dec).sr = .found 0x0100082A00000000) ∧
    (let s := decodeState .framing [1000] 1 0 63
     s.decState = .framing ∧ s.dq = 1000 :: [] ∧ s.dec.histLen.toNat < 64 ∧ detect (recover 1000 s.dec).sr = .none) := by
  decide
theorem witness_HistoryOverflowEntersFault :
    (decodeState .framing [500] 1 0 64).decState = .framing ∧ (decodeState .framing [500] 1 0 64).dec.histLen.toNat = 64 ∧
    (decodeState .framing [500] 1 0 64).dq = 500 :: [] := by decide
theorem witness_WaitCountsTicks :
    let s := { decodeState .framing [] 1 0 0 with giveupCnt := 2498 }
    s.decState = .framing ∧ s.giveupCnt.toNat < 2499 := by decide
/-- A give-up that matches (V-S8) and one that abandons (V-S7). -/
theorem witness_GiveupRowOutcome :
    (let s := decodeState .framing [] 0xF0800415 31 63
     s.decState = .framing ∧ s.dec.histLen.toNat < 64 ∧ detect (s.dec.sr <<< 1) = .found 0x0100082A00000000) ∧
    (let s := decodeState .framing [] 1 0 3
     s.decState = .framing ∧ s.dec.histLen.toNat < 64 ∧ detect (s.dec.sr <<< 1) = .none) := by decide
theorem witness_EmitPushesTheMessage :
    let s := { decodeState .emit [] 1 0 0 with mq := [1, 2, 3] }
    s.decState = .emit ∧ s.mq.length < 4 := by decide
theorem witness_CaptureRowsPushDropAndTick :
    let s := captureState 0 0 true 5 [1, 2, 3, 4, 5, 6, 7]
    s.ecs.holdValid = true ∧ s.dq.length < 8 := by decide
theorem witness_QueueTransfersMoveOneElement :
    let s := { State.reset with dq := [1, 2, 3, 4, 5, 6, 7], mq := [1, 2, 3] }
    s.dq.length < 8 ∧ s.dq = 1 :: [2, 3, 4, 5, 6, 7] ∧ s.mq.length < 4 ∧ s.mq = 1 :: [2, 3] := by decide
theorem witness_BlockedTransfersChangeNothing :
    (let s := { State.reset with dq := List.replicate 8 1, mq := List.replicate 4 1 }
     8 ≤ s.dq.length ∧ 4 ≤ s.mq.length) ∧ State.reset.dq = [] ∧ State.reset.mq = [] := by decide
theorem witness_OutputsShowStartOfCycle : ({ State.reset with mq := [5] }).mq = 5 :: [] := rfl

/-- A cycle with an operation before, in and after the place named. -/
theorem witness_StepRunsTheSelectedOperations :
    plan State.reset.pin State.reset = [.histRd 0] ++ .statusRd :: [.decIdleWait] ∧
    ∃ s1, runOps [.histRd 0] (beginCycle State.reset) = .next s1 := ⟨by decide, _, rfl⟩
/-- With and without `rst`, and with both sources. -/
theorem witness_CycleOperationsByCondition :
    ({ PortsIn.low with rst := true }).rst = true ∧ PortsIn.low.rst = false ∧
    plan { PortsIn.low with edge := true } (captureState 0 0 true 5 [1, 2, 3, 4, 5, 6, 7, 8]) =
      [.histRd 0, .statusRd, .ecsDrop, .decStart] ∧
    plan { PortsIn.low with edge := true } (captureState 0 0 true 5 [1, 2, 3, 4, 5, 6, 7]) =
      [.histRd 0, .statusRd, .decStart, .ecsPush, .ecsEdge] ∧
    plan { PortsIn.low with dqWrValid := true, dqWrData := 9 } (viaPort State.reset) =
      [.histRd 0, .statusRd, .decIdleWait, .dqPush 9] := by decide
theorem witness_StepIsTheParallelCycle : ({ State.reset with dq := List.replicate 8 1 }).dq.length ≤ 8 := by decide
theorem witness_QueuesUpdateOncePerCycle :
    let s := feed { PortsIn.low with mqRdReady := true } { State.reset with dq := List.replicate 8 1 }
    s.dq.length ≤ 8 ∧ s.pin.rst = false := by decide
theorem witness_FaultHoldsUntilReset :
    let s := feed { PortsIn.low with usTick := true } { decodeState .fault [1000] 1 0 64 with faultCode := .histOvf }
    s.decState = .fault ∧ s.pin.rst = false := by decide
theorem witness_RegistersHaveTheirWriters : ∃ t, exec .decConsume (decodeState .framing [500] 1 0 64) = .next t :=
  ⟨_, rfl⟩

/-- The invariant of a state in FRAMING with a glitch waiting. -/
theorem inv_glitchState : Inv (decodeState .framing [750] 1 0 0) where
  dqBound := by decide
  mqBound := by decide
  histBound := by decide
  bitBound := by decide
  seed := by decide
  histWf := by decide
  giveupBound := by decide
  giveupIdle := by decide
  faultIff := by decide
  noMsgLen := by decide
  faultFull := by decide
  framingScan := by decide
  emitScan := by decide
  mqOk := fun _ h => nomatch h
  emitPulseIdle := by decide
  abandonPulseIdle := by decide
  external := by decide
theorem witness_GlitchNeverCompletesAFrame :
    Inv (decodeState .framing [750] 1 0 0) ∧ (decodeState .framing [750] 1 0 0).pin.rst = false ∧
    (decodeState .framing [750] 1 0 0).decState = .framing ∧ (decodeState .framing [750] 1 0 0).dq = 750 :: [] ∧
    (750 : Delta).toNat ≤ 750 := ⟨inv_glitchState, by decide⟩

/-- The last tick but one, then the 2500th. -/
theorem witness_SilenceEndsTheAttemptAtTick2500 :
    let t := { PortsIn.low with usTick := true }
    let s := { decodeState .framing [] 1 0 0 with giveupCnt := 2498, inputs := [t, t] }
    (s.inputs = [t] ++ [t] ∧ silent [t] ∧ s.decState = .framing ∧ s.dq = [] ∧ s.ecs.holdValid = false ∧
      s.giveupCnt.toNat + ticksIn [t] ≤ 2499) ∧
    [t].head? = some t ∧ t.rst = false ∧ t.usTick = true ∧ s.giveupCnt.toNat + ticksIn [t] = 2499 := by
  refine ⟨⟨rfl, ?_, rfl, rfl, rfl, by decide⟩, rfl, rfl, rfl, by decide⟩
  intro p hp
  simp only [List.mem_singleton] at hp
  subst hp
  decide

theorem witness_EveryStepKeepsTheInvariant :
    Inv (decodeState .framing [750] 1 0 0) ∧ ∃ s', step (decodeState .framing [750] 1 0 0) = .next s' :=
  ⟨inv_glitchState, _, rfl⟩
theorem witness_CyclesAreTransactionRuns :
    Inv (decodeState .framing [750] 1 0 0) ∧ (decodeState .framing [750] 1 0 0).pin.rst = false :=
  ⟨inv_glitchState, by decide⟩
/-- A held delta, a delta in DQ, a message in MQ, the stage in IDLE: the cycle after EMIT. -/
theorem witness_ReadyConsumerDropsNoEdge :
    let s := feed { PortsIn.low with mqRdReady := true } { captureState 0 0 true 5 [7] with mq := [1] }
    Smooth s ∧ s.pin.mqRdReady = true ∧ (s.ecs.holdValid = true → s.pin.edge = false) := by
  refine ⟨?_, by decide, by decide⟩
  constructor <;> decide

end Sys2Proof.Tests
end

section
/-! PROOFS. Laws of the cycle: what every operation answers, the cycle as its two reads and then the operations that write
registers, and the step as the cycle of R137. -/

namespace Sys2Proof.Machine

/-! ### What one operation answers -/

/-- The two read-port operations (R133, R134), the only ones that write the record of the output ports. -/
def isReadOp : Instr → Bool
  | .histRd _ | .statusRd => true
  | _ => false

theorem popDq_nil {s : State} (h : s.dq = []) : popDq s = none := by simp [popDq, h]

theorem popDq_cons {s : State} {d : Delta} {ds : List Delta} (h : s.dq = d :: ds) :
    popDq s = some (d, { s with dq := ds, nets := { s.nets with popped := some d } }) := by simp [popDq, h]

/-- Every operation answers a next state, and all but the two reads leave the record of the output ports. -/
theorem exec_next_out (i : Instr) (s : State) :
    ∃ t, exec i s = .next t ∧ (isReadOp i = false → t.out = s.out) := by
  cases i with
  | histRd _ => exact ⟨_, rfl, fun h => nomatch h⟩
  | statusRd => exact ⟨_, rfl, fun h => nomatch h⟩
  | decStart =>
    cases hq : s.dq with
    | nil => exact ⟨s, by simp [exec, execDecStart, popDq_nil hq], fun _ => rfl⟩
    | cons d ds =>
      cases hf : s.params.feedStartDelta <;>
        exact ⟨_, by simp [exec, execDecStart, popDq_cons hq, hf]; rfl, fun _ => by simp⟩
  | decConsume =>
    cases hq : s.dq with
    | nil => exact ⟨s, by simp [exec, execDecConsume, popDq_nil hq], fun _ => rfl⟩
    | cons d ds => exact ⟨_, by simp [exec, execDecConsume, popDq_cons hq]; rfl, fun _ => by simp⟩
  | dqPop =>
    cases hq : s.dq with
    | nil => exact ⟨s, by simp [exec, execDqPop, popDq_nil hq], fun _ => rfl⟩
    | cons d ds =>
      exact ⟨{ s with dq := ds, nets := { s.nets with popped := some d } },
        by simp [exec, execDqPop, popDq_cons hq], fun _ => rfl⟩
  | decEmit =>
    simp only [exec, execDecEmit]
    cases s.mqNf <;> exact ⟨_, rfl, fun _ => by simp⟩
  | ecsPush =>
    simp only [exec, execEcsPush]
    cases s.dqReady <;> exact ⟨_, rfl, fun _ => by simp⟩
  | decWait tick => cases tick <;> exact ⟨_, rfl, fun _ => rfl⟩
  | _ => exact ⟨_, rfl, fun _ => by simp⟩

/-- Operations other than the reads, run one after another, leave the record of the output ports. -/
theorem runOps_next_out (is : List Instr) (s : State) (h : ∀ i ∈ is, isReadOp i = false) :
    ∃ t, runOps is s = .next t ∧ t.out = s.out := by
  induction is generalizing s with
  | nil => exact ⟨s, rfl, rfl⟩
  | cons i is ih =>
    obtain ⟨u, hu, hout⟩ := exec_next_out i s
    obtain ⟨t, ht, hout'⟩ := ih u fun j hj => h j (List.mem_cons_of_mem _ hj)
    exact ⟨t, by rw [runOps_cons hu, ht], hout'.trans (hout (h i List.mem_cons_self))⟩

/-! ### The cycle: first the two reads, then the operations that write registers -/

/-- The operations of a cycle after the two reads: RESET alone in a cycle with `rst` (R161). -/
def writeOps (p : PortsIn) (s : State) : List Instr :=
  if p.rst then [.reset]
  else selected .hsMqPop (hsMqPopWord p s) ++ dropOps p s ++ selected .deccond (deccondWord p s) ++ producerOps p s

theorem plan_eq_readOps_append (p : PortsIn) (s : State) : plan p s = readOps p ++ writeOps p s := by
  unfold plan writeOps cycleOps
  rw [selected_rst1]
  cases p.rst <;> simp

theorem deccondRow_not_read (st : DecState) (ne expire nf tick : Bool) :
    isReadOp (deccondRow st ne expire nf tick) = false := by
  cases st <;> cases ne <;> cases expire <;> cases nf <;> rfl

theorem not_read_of_mem_ite {b : Bool} {i j : Instr} (hi : isReadOp i = false) (hj : j ∈ if b then [i] else []) :
    isReadOp j = false := by
  cases b
  · exact absurd hj List.not_mem_nil
  · rwa [List.mem_singleton.mp hj]

/-- An edge is dropped in the cycles in which R137's producer case drops one. -/
theorem dropOps_eq (p : PortsIn) (s : State) : dropOps p s = if (producerCase p s).2.1 then [.ecsDrop] else [] := by
  unfold dropOps producerCase
  rw [selected_ecsedge]
  cases s.params.deltaSource with
  | external => rfl
  | ecs =>
    show List.filter _ _ = if (p.edge && s.stalled) = true then _ else _
    cases p.edge <;> cases s.stalled <;> decide

theorem producerOps_not_read (p : PortsIn) (s : State) : ∀ i ∈ producerOps p s, isReadOp i = false := by
  unfold producerOps
  rw [selected_ecspush, selected_tick1, selected_hsDqPush]
  intro i hi
  cases hsrc : s.params.deltaSource <;> rw [hsrc] at hi
  case ecs =>
    simp only [List.mem_append, List.mem_filter, beq_iff_eq] at hi
    obtain (hpush | ⟨-, rfl⟩) | htick := hi
    · exact not_read_of_mem_ite rfl hpush
    · rfl
    · exact not_read_of_mem_ite rfl htick
  case external => exact not_read_of_mem_ite rfl hi

theorem writeOps_not_read (p : PortsIn) (s : State) : ∀ i ∈ writeOps p s, isReadOp i = false := by
  unfold writeOps
  rw [selected_hsMqPop, dropOps_eq, selected_deccond]
  intro i hi
  split at hi
  · rw [List.mem_singleton.mp hi]; rfl
  · simp only [List.mem_append, List.mem_singleton] at hi
    obtain ((hpop | hdrop) | rfl) | hprod := hi
    · exact not_read_of_mem_ite rfl hpop
    · exact not_read_of_mem_ite rfl hdrop
    · exact deccondRow_not_read ..
    · exact producerOps_not_read p s i hprod

/-- The state once both read ports have been read, all of it start-of-cycle values (R20, R133, R134). -/
def afterReads (s : State) : State :=
  { beginCycle s with
    out := { (beginCycle s).out with histRdData := s.dec.hist.read s.pin.histRdAddr, status := s.statusWord } }

/-- A step shows the read ports and then runs the operations that write registers. -/
theorem step_eq_writeOps (s : State) : step s = runOps (writeOps s.pin s) (afterReads s) := by
  rw [step_eq_runOps, plan_eq_readOps_append, readOps_eq]
  rfl

/-! ### A cycle is the cycle of R137 -/

/-- A state with the three pulses fallen, as R137's cycle starts from (R138). -/
def pulseless (s : State) : State := { s with emitPulse := false, abandonPulse := false, edgeDropPulse := false }

/-- A state with the model's records of the cycle put into it (logs 2, 5, 11): the inputs to come, the ports as shown,
the values handed over, the counter of free values. -/
def withRecords (s t : State) (nets : Nets) : State :=
  { t with inputs := s.inputs.tail, out := (afterReads s).out, nets := nets, freeCtr := s.nextFree }

theorem parallelCycle_rst {p : PortsIn} (s : State) (h : p.rst = true) : parallelCycle p s = resetBlock s := by
  rw [parallelCycle, if_pos h]

/-- The cycle of R137 without `rst`, its parts by name. -/
theorem parallelCycle_no_rst {p : PortsIn} (s : State) (h : p.rst = false) :
    parallelCycle p s =
      { (decodeCase p (pulseless s)).1 with
        ecs := (producerCase p s).1
        edgeDropPulse := (producerCase p s).2.1
        dq := (if (decodeCase p (pulseless s)).2.1 then s.dq.tail else s.dq) ++ (producerCase p s).2.2
        mq := (if s.mqValid && p.mqRdReady then s.mq.tail else s.mq) ++
          (if (decodeCase p (pulseless s)).2.2 then [s.msgHold] else []) } := by
  rw [parallelCycle, if_neg (by simp [h]), Bool.and_comm]
  rfl

/-- The state that the decode-stage row finds in a cycle without `rst`: the ports are read, the Consumer has popped, and
a dropped edge has raised its pulse. -/
def beforeRow (s : State) : State :=
  { afterReads s with
    mq := if s.mqValid && s.pin.mqRdReady then s.mq.tail else s.mq
    edgeDropPulse := (producerCase s.pin s).2.1
    nets := { Nets.idle with taken := if s.mqValid && s.pin.mqRdReady then s.mq.head? else none } }

/-- The Consumer's pop and the dropped edge, the operations between the reads and the decode-stage row. -/
theorem runOps_beforeRow (s : State) (is : List Instr) :
    runOps (selected .hsMqPop (hsMqPopWord s.pin s) ++ dropOps s.pin s ++ is) (afterReads s) =
      runOps is (beforeRow s) := by
  rw [selected_hsMqPop, dropOps_eq, List.append_assoc, runOps_if (fun _ => rfl), runOps_if (fun _ => rfl)]
  congr 1
  unfold beforeRow State.mqValid
  cases hmq : s.mq <;> cases s.pin.mqRdReady <;> cases (producerCase s.pin s).2.1 <;>
    simp [popMq, afterReads, hmq, Nets.idle]

theorem length_ite_tail_le {α : Type} (b : Bool) (q : List α) : (if b then q.tail else q).length ≤ q.length := by
  cases b <;> simp

theorem mem_of_mem_ite_tail {α : Type} {b : Bool} {q : List α} {a : α} (h : a ∈ if b then q.tail else q) : a ∈ q := by
  cases b
  · exact h
  · exact List.mem_of_mem_tail h

/-- A step is the cycle of R137 with the model's records of the cycle put into it (R14, R137). -/
theorem step_eq_parallelCycle (s : State) (hb : s.dq.length ≤ 8) :
    ∃ nets, step s = .next (withRecords s (parallelCycle s.pin s) nets) := by
  rw [step_eq_writeOps]
  unfold writeOps
  cases hr : s.pin.rst with
  | true => exact ⟨Nets.idle, by rw [parallelCycle_rst s hr]; rfl⟩
  | false =>
    obtain ⟨popped, scan, hrow⟩ := exec_deccondRow s.pin (pulseless s) (beforeRow s)
      rfl rfl rfl rfl rfl rfl rfl rfl rfl (Nat.lt_of_le_of_lt (length_ite_tail_le _ _))
    refine ⟨{ (beforeRow s).nets with popped := popped, scan := scan }, ?_⟩
    rw [if_neg Bool.false_ne_true, List.append_assoc, runOps_beforeRow, selected_deccond, parallelCycle_no_rst s hr]
    refine (runOps_cons hrow _).trans ((runOps_producerOps s.pin s _ hb ?_ ?_).trans ?_)
    · rfl
    · exact length_ite_tail_le _ s.dq
    · rw [withRecords, decodeCase_params]
      rfl

end Sys2Proof.Machine
end

section
/-! PROOFS. Laws of the invariant: the clauses of the decoder registers, the outcome of a consume, the cases of the decode
stage and of the producer, RESET, and the cycle of R137 that is made of them. -/

namespace Sys2Proof.Machine

/-! ### The invariant of the decoder registers -/

/-- The clauses of the invariant that speak of the decoder registers alone. -/
structure DecoderInv (c : Decoder) : Prop where
  histBound : c.histLen.toNat ≤ 64
  bitBound : c.bitCount.toNat ≤ 2 * c.histLen.toNat
  seed : c.bitCount.toNat ≤ 63 → c.sr.toNat / 2 ^ c.bitCount.toNat = 1
  histWf : c.hist.wf = true

theorem Inv.decoder {s : State} (h : Inv s) : DecoderInv s.dec := ⟨h.histBound, h.bitBound, h.seed, h.histWf⟩

/-- The seed starts at bit 0 (R95, R100). -/
theorem newAttempt_decoderInv {c : Decoder} (w : c.hist.wf = true) : DecoderInv (newAttempt c) :=
  ⟨by simp, by simp, by simp, w⟩

/-- Bits shifted in while the seed has not reached the top of SR move it up by their number (R95). -/
theorem foldl_shiftIn_seed (bits : List Bool) (sr : ShiftReg) (n : Nat) (hseed : sr.toNat / 2 ^ n = 1)
    (hroom : n + bits.length ≤ 63) : (bits.foldl shiftIn sr).toNat / 2 ^ (n + bits.length) = 1 := by
  induction bits generalizing sr n with
  | nil => exact hseed
  | cons b bits ih =>
    rw [List.length_cons] at hroom ⊢
    rw [List.foldl_cons, show n + (bits.length + 1) = n + 1 + bits.length by omega]
    refine ih (shiftIn sr b) (n + 1) ?_ (by omega)
    have hlt : sr.toNat < 2 * 2 ^ n := by
      have := Nat.lt_mul_div_succ sr.toNat (Nat.two_pow_pos n)
      rw [hseed] at this
      omega
    have hpow : 2 ^ n ≤ 2 ^ 62 := Nat.pow_le_pow_right (by omega) (by omega)
    have hb : b.toNat ≤ 1 := Bool.toNat_le b
    rw [shiftIn_toNat, Nat.mod_eq_of_lt (by omega), pow_succ', ← Nat.div_div_eq_div_mul,
      show (2 * sr.toNat + b.toNat) / 2 = sr.toNat by omega]
    exact hseed

theorem appendHist_recover_decoderInv {c : Decoder} (h : DecoderInv c) (d : Delta) (hroom : c.histLen.toNat ≠ 64) :
    DecoderInv (appendHist d (recover d c)) := by
  obtain ⟨hhist, hbit, hseed, hwf⟩ := h
  have hlen : (appendHist d (recover d c)).histLen.toNat = c.histLen.toNat + 1 := by
    simpa using histLen_succ (show c.histLen.toNat < 64 by omega)
  have htwo := bitsOfBin_length_le c.lastBit (classify d)
  have hcount : (recover d c).bitCount.toNat = c.bitCount.toNat + (bitsOfBin c.lastBit (classify d)).length := by
    rw [recover_bitCount, BitVec.toNat_add, BitVec.toNat_ofNat]
    omega
  refine ⟨by omega, ?_, fun hlow => ?_, ?_⟩
  · rw [hlen, appendHist_bitCount, hcount]
    omega
  · rw [appendHist_bitCount, hcount] at hlow ⊢
    rw [appendHist_sr, recover_sr]
    exact foldl_shiftIn_seed _ _ _ (hseed (by omega)) hlow
  · simpa using Memory.write_wf c.hist _ d hwf

/-- A consume keeps the decoder's clauses. -/
theorem consume_decoderInv {c : Decoder} (h : DecoderInv c) (d : Delta) : DecoderInv (consume d c).2 := by
  rcases consume_cases d c with ⟨-, e⟩ | ⟨hroom, -, e⟩ | ⟨hroom, w, -, e⟩ <;> rw [e]
  · exact h
  · exact appendHist_recover_decoderInv h d hroom
  · exact appendHist_recover_decoderInv h d hroom

/-! ### The invariant of the block -/

theorem msgOk_ofBytes (len b1 b2 b3 b4 b5 b6 b7 : Byte) :
    msgOk (ofBytes len b1 b2 b3 b4 b5 b6 b7) =
      (len.extractLsb' 3 5 == 0 && decide (1 ≤ (len.extractLsb' 0 3).toNat) && decide ((len.extractLsb' 0 3).toNat ≤ 5) &&
        [b3, b4, b5, b6, b7].zipIdx.all fun b => decide (b.2 < (len.extractLsb' 0 3).toNat) || b.1 == 0) := by
  obtain ⟨-, -, -, h3, h4, h5, h6, h7⟩ := byteAt_ofBytes len b1 b2 b3 b4 b5 b6 b7
  simp [msgOk, msgReserved_ofBytes, msgLen_ofBytes, msgPayload_eq_byteAt, List.range, List.range.loop, *]

/-- Every message that a scan finds is one the block may push (R59, R69, R86). -/
theorem msgOk_of_detect {sr : ShiftReg} {w : MsgWord} (h : detect sr = .found w) : msgOk w = true := by
  rw [detect_eq] at h
  split_ifs at h <;> cases h <;> rw [msgOk_ofBytes] <;> simp

/-- Going on in FRAMING with a decoder whose last scan found nothing (R99, R113, R115). -/
theorem inv_framing {s : State} (h : Inv s) (hst : s.decState ≠ .fault) (hemit : s.emitPulse ≠ true)
    (habandon : s.abandonPulse ≠ true) {c : Decoder} (hc : DecoderInv c) (hscan : detect c.sr = .none) :
    Inv { s with dec := c, giveupCnt := 0, decState := .framing } :=
  { hc, h with
    giveupBound := Nat.zero_le _
    giveupIdle := fun _ => rfl
    faultIff := ⟨nofun, fun e => absurd (h.faultIff.mpr e) hst⟩
    faultFull := nofun
    framingScan := fun _ => hscan
    emitScan := nofun
    emitPulseIdle := fun e => absurd e hemit
    abandonPulseIdle := fun e => absurd e habandon }

/-- What a consume and its outcome make of the block (R101, R113, R145), whether the decoder is the block's own or a new
attempt's. -/
theorem outcomeCase_inv {s : State} (h : Inv s) (hst : s.decState ≠ .fault) (hemit : s.emitPulse ≠ true)
    (habandon : s.abandonPulse ≠ true) {c : Decoder} (hc : DecoderInv c) (d : Delta) (giveup : Bool) :
    Inv (outcomeCase (consume d c) giveup s) := by
  have hcode : s.faultCode ≠ .histOvf := fun e => hst (h.faultIff.mpr e)
  have hc' := consume_decoderInv hc d
  obtain ⟨hfull, e⟩ | ⟨-, hscan, e⟩ | ⟨-, w, hscan, e⟩ := consume_cases d c <;> rw [e] at hc' ⊢
  · exact { hc', h with
      giveupBound := Nat.zero_le _
      giveupIdle := fun _ => rfl
      faultIff := ⟨fun _ => rfl, fun _ => rfl⟩
      noMsgLen := nofun
      faultFull := fun _ => hfull
      framingScan := nofun
      emitScan := nofun
      emitPulseIdle := fun e => absurd e hemit
      abandonPulseIdle := fun e => absurd e habandon }
  · cases giveup
    case false => exact inv_framing h hst hemit habandon hc' hscan
    case true => exact { hc', h with
      giveupBound := Nat.zero_le _
      giveupIdle := fun _ => rfl
      faultIff := ⟨nofun, fun e => absurd e hcode⟩
      faultFull := nofun
      framingScan := nofun
      emitScan := nofun
      emitPulseIdle := fun _ => rfl
      abandonPulseIdle := fun _ => rfl }
  · exact { hc', h with
      giveupBound := Nat.zero_le _
      giveupIdle := fun _ => rfl
      faultIff := ⟨nofun, fun e => absurd e hcode⟩
      faultFull := nofun
      framingScan := nofun
      emitScan := fun _ => hscan
      emitPulseIdle := fun e => absurd e hemit
      abandonPulseIdle := fun e => absurd e habandon }

/-- A pushed message leaves EMIT for IDLE with the pulse (R119). -/
theorem inv_emitted {s : State} (h : Inv s) (hst : s.decState = .emit) :
    Inv { s with emitPulse := true, decState := .idle } :=
  { h with
    giveupIdle := fun _ => h.giveupIdle (by simp [hst])
    faultIff := ⟨nofun, fun e => absurd (h.faultIff.mpr e) (by simp [hst])⟩
    faultFull := nofun
    framingScan := nofun
    emitScan := nofun
    emitPulseIdle := fun _ => rfl
    abandonPulseIdle := fun _ => rfl }

/-- A tick in FRAMING before the 2500th (R117). -/
theorem inv_counted {s : State} (h : Inv s) (hst : s.decState = .framing) (hcnt : s.giveupCnt ≠ 2499) :
    Inv { s with giveupCnt := s.giveupCnt + 1 } :=
  { h with
    giveupBound := by
      have hle := h.giveupBound
      show (s.giveupCnt + 1).toNat ≤ 2499
      bv_omega
    giveupIdle := fun e => absurd hst e }

/-- The decode stage's case of R137 keeps the invariant. -/
theorem decodeCase_inv (p : PortsIn) {s : State} (h : Inv s) (hemit : s.emitPulse ≠ true)
    (habandon : s.abandonPulse ≠ true) : Inv (decodeCase p s).1 := by
  have hnew : DecoderInv (newAttempt s.dec) := newAttempt_decoderInv h.histWf
  unfold decodeCase
  split
  case h_1 => exact h
  case h_2 d ds hst hdq =>
    split
    · exact outcomeCase_inv h (by simp [hst]) hemit habandon hnew d false
    · exact inv_framing h (by simp [hst]) hemit habandon hnew detect_seed
  case h_3 d ds hst hdq => exact outcomeCase_inv h (by simp [hst]) hemit habandon h.decoder d false
  case h_4 hst hdq =>
    split
    · split
      · exact outcomeCase_inv h (by simp [hst]) hemit habandon h.decoder 2500 true
      · next hcnt => exact inv_counted h hst hcnt
    · exact h
  case h_5 hst =>
    split
    · exact inv_emitted h hst
    · exact h
  case h_6 => exact h

/-- The decode stage pushes in EMIT alone, where MQ has room (R131). -/
theorem decodeCase_push {p : PortsIn} {s : State} (h : (decodeCase p s).2.2 = true) :
    s.decState = .emit ∧ s.mq.length < 4 := by
  unfold decodeCase at h
  split at h
  case h_5 hst =>
    split at h
    · next hroom => exact ⟨hst, hroom⟩
    · cases h
  all_goals repeat' split at h
  all_goals cases h

/-- A delta offered to DQ enters only where there is room. -/
theorem length_offered_le {q : List Delta} (hq : q.length ≤ 8) (valid : Bool) (d : Delta) :
    q.length + (if valid && decide (q.length < 8) then [d] else []).length ≤ 8 := by
  split
  · next h =>
    rw [Bool.and_eq_true, decide_eq_true_eq] at h
    exact h.2
  · exact hq

/-- The producer keeps DQ within its capacity (R129, R135). -/
theorem producerCase_push_length {s : State} (p : PortsIn) (hb : s.dq.length ≤ 8) :
    s.dq.length + (producerCase p s).2.2.length ≤ 8 := by
  unfold producerCase
  cases s.params.deltaSource with
  | ecs => exact length_offered_le hb s.ecs.holdValid s.ecs.holdDelta
  | external => exact length_offered_le hb p.dqWrValid p.dqWrData

/-- Without an Edge Capture Stage the producer writes none of its registers and no pulse (R112). -/
theorem producerCase_external {s : State} (p : PortsIn) (hsrc : s.params.deltaSource = .external) :
    (producerCase p s).1 = s.ecs ∧ (producerCase p s).2.1 = false := by
  unfold producerCase
  rw [hsrc]
  exact ⟨rfl, rfl⟩

theorem inv_pulseless {s : State} (h : Inv s) : Inv (pulseless s) :=
  { h with
    emitPulseIdle := nofun
    abandonPulseIdle := nofun
    external := fun e => ⟨(h.external e).1, rfl⟩ }

/-- RESET leads into the invariant from every state whose history is in canonical form (R161). -/
theorem inv_resetBlock {s : State} (w : s.dec.hist.wf = true) : Inv (resetBlock s) :=
  { newAttempt_decoderInv w with
    dqBound := Nat.zero_le _
    mqBound := Nat.zero_le _
    giveupBound := Nat.zero_le _
    giveupIdle := fun _ => rfl
    faultIff := ⟨nofun, nofun⟩
    noMsgLen := nofun
    faultFull := nofun
    framingScan := nofun
    emitScan := nofun
    mqOk := fun _ hw => absurd hw List.not_mem_nil
    emitPulseIdle := nofun
    abandonPulseIdle := nofun
    external := fun _ => ⟨rfl, rfl⟩ }

/-- The cycle of R137 keeps the invariant. -/
theorem parallelCycle_inv (p : PortsIn) {s : State} (h : Inv s) : Inv (parallelCycle p s) := by
  cases hr : p.rst with
  | true =>
    rw [parallelCycle_rst s hr]
    exact inv_resetBlock h.histWf
  | false =>
    have hd : Inv (decodeCase p (pulseless s)).1 := decodeCase_inv p (inv_pulseless h) nofun nofun
    have hpush := producerCase_push_length p h.dqBound
    have hpar : (decodeCase p (pulseless s)).1.params = s.params := decodeCase_params p (pulseless s)
    rw [parallelCycle_no_rst s hr]
    exact { hd with
      dqBound := by
        have hpop := length_ite_tail_le (decodeCase p (pulseless s)).2.1 s.dq
        rw [List.length_append]
        omega
      mqBound := by
        have hpop := length_ite_tail_le (s.mqValid && p.mqRdReady) s.mq
        rw [List.length_append]
        cases hp : (decodeCase p (pulseless s)).2.2 with
        | false => exact hpop.trans h.mqBound
        | true => exact Nat.lt_of_le_of_lt hpop (decodeCase_push hp).2
      mqOk := fun w hw => by
        obtain hold | hnew := List.mem_append.mp hw
        · exact h.mqOk w (mem_of_mem_ite_tail hold)
        · split at hnew
          · next hp =>
            rw [List.mem_singleton.mp hnew]
            exact msgOk_of_detect (h.emitScan (decodeCase_push hp).1)
          · exact absurd hnew List.not_mem_nil
      external := fun e => by
        have hsrc : s.params.deltaSource = .external := hpar ▸ e
        obtain ⟨hecs, hdrop⟩ := producerCase_external p hsrc
        exact ⟨hecs.trans (h.external hsrc).1, hdrop⟩ }

/-- The invariant says nothing of the model's records. -/
theorem inv_withRecords (s : State) {t : State} (h : Inv t) (nets : Nets) : Inv (withRecords s t nets) :=
  { h with }

end Sys2Proof.Machine
end

section
/-! PROOFS. Laws of an attempt: how HIST_LEN moves, which entries of HIST it writes and which it leaves. -/

namespace Sys2Proof.Machine

/-- A consume never lowers HIST_LEN and never takes it past 64 (R103). -/
theorem consume_histLen_bounds {d : Delta} {c : Decoder} (h : c.histLen.toNat ≤ 64) :
    c.histLen.toNat ≤ (consume d c).2.histLen.toNat ∧ (consume d c).2.histLen.toNat ≤ 64 := by
  by_cases hf : c.histLen.toNat = 64
  · rw [consume_full hf]
    exact ⟨le_rfl, h⟩
  · have := consume_histLen d c (by omega)
    omega

/-- A consume that answers nothing found room. -/
theorem room_of_consume_none {d : Delta} {c : Decoder} (h : (consume d c).1 = .none) : c.histLen.toNat ≠ 64 := by
  intro hf
  rw [consume_full hf] at h
  cases h

/-- An attempt takes its first delta, and goes on when that answered nothing. -/
theorem attempt_cons (d : Delta) (ds : List Delta) (c : Decoder) :
    attempt (d :: ds) c = if (consume d c).1 = .none then attempt ds (consume d c).2 else consume d c := by
  split
  · next h => exact attempt_cons_none (Prod.ext h rfl) ds
  · next h => exact attempt_cons_end h ds

theorem attempt_histLen_bounds (ds : List Delta) {c : Decoder} (h : c.histLen.toNat ≤ 64) :
    c.histLen.toNat ≤ (attempt ds c).2.histLen.toNat ∧ (attempt ds c).2.histLen.toNat ≤ 64 := by
  induction ds generalizing c with
  | nil => exact ⟨le_rfl, h⟩
  | cons d ds ih =>
    obtain ⟨hle, hle64⟩ := consume_histLen_bounds (d := d) h
    rw [attempt_cons]
    split
    · exact ⟨hle.trans (ih hle64).1, (ih hle64).2⟩
    · exact ⟨hle, hle64⟩

/-- An attempt that has answered nothing has appended every delta (R104). -/
theorem attempt_histLen_of_none {ds : List Delta} {c : Decoder} (hb : c.histLen.toNat ≤ 64)
    (h : (attempt ds c).1 = .none) : (attempt ds c).2.histLen.toNat = c.histLen.toNat + ds.length := by
  induction ds generalizing c with
  | nil => rfl
  | cons d ds ih =>
    rw [attempt_cons] at h ⊢
    split at h
    · next hd =>
      have hroom := room_of_consume_none hd
      have hlen := consume_histLen d c (by omega)
      rw [if_pos hd, ih (by omega) h, hlen, List.length_cons]
      omega
    · next hd => exact absurd h hd

/-- A consume writes no entry outside the range from HIST_LEN before it to HIST_LEN after it (R101). -/
theorem consume_read_outside {d : Delta} {c : Decoder} (hb : c.histLen.toNat ≤ 64) {a : BitVec 6}
    (ha : a.toNat < c.histLen.toNat ∨ (consume d c).2.histLen.toNat ≤ a.toNat) :
    (consume d c).2.hist.read a = c.hist.read a := by
  by_cases hf : c.histLen.toNat = 64
  · rw [consume_full hf]
  · have := consume_histLen d c (by omega)
    exact consume_hist_read_other d c (by omega) hb

/-- An attempt writes no entry outside the range from its first HIST_LEN to its last. -/
theorem attempt_read_outside (ds : List Delta) {c : Decoder} (hb : c.histLen.toNat ≤ 64) {a : BitVec 6}
    (ha : a.toNat < c.histLen.toNat ∨ (attempt ds c).2.histLen.toNat ≤ a.toNat) :
    (attempt ds c).2.hist.read a = c.hist.read a := by
  induction ds generalizing c with
  | nil => rfl
  | cons d ds ih =>
    obtain ⟨hle, hle64⟩ := consume_histLen_bounds (d := d) hb
    rw [attempt_cons] at ha ⊢
    split at ha
    · next hd =>
      have hmono := (attempt_histLen_bounds ds hle64).1
      rw [if_pos hd, ih hle64 (by omega)]
      exact consume_read_outside hb (by omega)
    · next hd =>
      rw [if_neg hd]
      exact consume_read_outside hb ha

/-- The entries an attempt has written are its deltas in consume order (R26, R104). -/
theorem attempt_read_inside {ds : List Delta} {c : Decoder} (hb : c.histLen.toNat ≤ 64) (hw : c.hist.wf = true) {k : Nat}
    (hk : c.histLen.toNat + k < (attempt ds c).2.histLen.toNat) :
    ds[k]? = some ((attempt ds c).2.hist.read (BitVec.ofNat 6 (c.histLen.toNat + k))) := by
  induction ds generalizing c k with
  | nil => exact absurd hk (by simp [attempt_nil])
  | cons d ds ih =>
    have hroom : c.histLen.toNat < 64 := by
      have := (attempt_histLen_bounds (d :: ds) hb).2
      omega
    have hlen := consume_histLen d c hroom
    have hsame := consume_hist_read_same d c hroom hw
    rw [attempt_cons] at hk ⊢
    split at hk
    · next hd =>
      rw [if_pos hd]
      cases k with
      | zero =>
        have hbelow : (BitVec.ofNat 6 c.histLen.toNat).toNat < (consume d c).2.histLen.toNat := by
          rw [BitVec.toNat_ofNat]
          omega
        rw [Nat.add_zero, attempt_read_outside ds (by omega) (.inl hbelow), hsame]
        rfl
      | succ k =>
        rw [show c.histLen.toNat + (k + 1) = (consume d c).2.histLen.toNat + k by omega] at hk ⊢
        exact ih (by omega) (consume_hist_wf d c hw) hk
    · next hd =>
      obtain rfl : k = 0 := by omega
      rw [if_neg hd, Nat.add_zero, hsame]
      rfl

/-- A delta offered to a full history faults and changes nothing (R101, R103). -/
theorem attempt_full {c : Decoder} (h : c.histLen.toNat = 64) (d : Delta) : attempt [d] c = (.fault .histOvf, c) := by
  rw [attempt_cons, consume_full h]
  rfl

end Sys2Proof.Machine
end

section
/-! PROOFS. The statements of the state family (10_state.md), each from the laws above. -/

namespace Sys2Proof.Machine

/-- Settles O58: a step is the cycle of R137, whose two halves, the decode stage's case and the producer's, keep the
invariant. -/
theorem everyStepKeepsTheInvariant : Obligations.EveryStepKeepsTheInvariant := by
  intro s s' h hstep
  obtain ⟨nets, e⟩ := step_eq_parallelCycle s h.dqBound
  rw [e] at hstep
  cases hstep
  exact inv_withRecords s (parallelCycle_inv s.pin h) nets

/-- Settles O27: from HIST_LEN = 0 the entries written are those of the deltas consumed, and an attempt without an answer
has consumed them all. -/
theorem attemptConsumesAtMostSixtyFour : Obligations.AttemptConsumesAtMostSixtyFour := by
  intro ds c
  have hzero : (newAttempt c).histLen.toNat = 0 := by simp
  have hb : (newAttempt c).histLen.toNat ≤ 64 := by omega
  refine ⟨fun hw k hk => ?_, fun a ha => attempt_read_outside ds hb (.inr ha), fun hnone => ?_⟩
  · have := attempt_read_inside (ds := ds) hb hw (k := k) (by omega)
    rwa [hzero, Nat.zero_add] at this
  · have hlen := attempt_histLen_of_none hb hnone
    have hle := (attempt_histLen_bounds ds hb).2
    rw [hzero, Nat.zero_add] at hlen
    refine ⟨by omega, hlen, fun h64 d => ?_⟩
    rw [attempt_append hnone, attempt_full (by omega)]

/-- Settles O47: the reads come first in the plan and show start-of-cycle values, and no later operation writes a port. -/
theorem outputsShowStartOfCycle : Obligations.OutputsShowStartOfCycle := by
  intro s
  obtain ⟨t, ht, hout⟩ := runOps_next_out _ (afterReads s) (writeOps_not_read s.pin s)
  refine ⟨t, (step_eq_writeOps s).trans ht, ?_⟩
  rw [hout]
  refine ⟨rfl, rfl, fun m rest hm => ?_, rfl, rfl, beq_eq_decide _ _, rfl, rfl, rfl⟩
  show s.mqRdData = m
  rw [State.mqRdData, hm]

/-- Settles O2: the state after reset is what RESET makes of it. -/
theorem resetMeetsInvariant : Obligations.ResetMeetsInvariant :=
  inv_resetBlock (s := State.reset) Decoder.reset_hist_wf

/-- Settles O1, by evaluating the one state it names. -/
theorem resetHoldsSpecValues : Obligations.ResetHoldsSpecValues := by
  unfold Obligations.ResetHoldsSpecValues
  decide

end Sys2Proof.Machine
end

section
/-! PROOFS. Laws of the encoding: what each format's decoder makes of an encoded operation, the frame-detector row of
eight bytes, the message that a scan finds, the bits of a sequence of deltas, the operations of a cycle by their
conditions, and the bits of the STATUS word. -/

namespace Sys2Proof

/-! ### Decoding a single word -/

/-- What fires in a format is the operation that its word decodes to. -/
theorem decode_of_selected {f : Format} {w : BitVec 64} {i : Instr} (h : selected f w = [i]) : decode f w = .ok i := by
  unfold selected at h
  split at h
  · next j e =>
    rw [e, List.singleton_inj.mp h]
  · cases h

/-- An encoded DEC_WAIT keeps its tick (R117). -/
theorem decode_encode_decWait (tick : Bool) :
    decode (encode (.decWait tick)).1 (encode (.decWait tick)).2 = .ok (.decWait tick) := by
  cases tick <;> decide

/-- An encoded DQ_PUSH keeps its delta (R129). -/
theorem decode_encode_dqPush (d : Delta) :
    decode (encode (.dqPush d)).1 (encode (.dqPush d)).2 = .ok (.dqPush d) :=
  Machine.decode_hsDqPush d true true

/-- An encoded HIST_RD keeps its address (R133). -/
theorem decode_encode_histRd (a : BitVec 6) :
    decode (encode (.histRd a)).1 (encode (.histRd a)).2 = .ok (.histRd a) :=
  decode_of_selected (Machine.selected_portHist a)

/-! ### The frame-detector row of eight bytes (R57) -/

/-- The row that eight bytes select, the longest frame first (R57, R85). -/
def rowOfBytes (b0 b1 b2 b3 b4 b5 b6 b7 : Byte) : Instr :=
  if b0 = 0xE5 then .fdMatch5 b1 b2 b3 b4 b5 b6 b7
  else if b1 = 0xE4 then .fdMatch4 b0 b2 b3 b4 b5 b6 b7
  else if b2 = 0xE3 then .fdMatch3 b0 b1 b3 b4 b5 b6 b7
  else if b3 = 0xE2 then .fdMatch2 b0 b1 b2 b4 b5 b6 b7
  else if b4 = 0xE1 then .fdMatch1 b0 b1 b2 b3 b5 b6 b7
  else .fdNone b0 b1 b2 b3 b4 b5 b6 b7

/-- Eight bytes put together decode to the row they select. -/
theorem decode_ofBytes (b0 b1 b2 b3 b4 b5 b6 b7 : Byte) :
    decode .sr64 (ofBytes b0 b1 b2 b3 b4 b5 b6 b7) = .ok (rowOfBytes b0 b1 b2 b3 b4 b5 b6 b7) := by
  obtain ⟨e0, e1, e2, e3, e4, e5, e6, e7⟩ := byteAt_ofBytes b0 b1 b2 b3 b4 b5 b6 b7
  rw [decode_sr64, decodeSr64_eq, e0, e1, e2, e3, e4, e5, e6, e7, rowOfBytes]

/-- Each row is reached past the longer markers, so the bytes it leaves open hold none of them (R89 to R93). -/
theorem rowOfBytes_wf (b0 b1 b2 b3 b4 b5 b6 b7 : Byte) : (rowOfBytes b0 b1 b2 b3 b4 b5 b6 b7).wf = true := by
  unfold rowOfBytes
  split_ifs <;> simp_all [Instr.wf]

/-- The row of eight bytes drops none of them: it encodes to all eight. -/
theorem encode_rowOfBytes (b0 b1 b2 b3 b4 b5 b6 b7 : Byte) :
    encode (rowOfBytes b0 b1 b2 b3 b4 b5 b6 b7) = (.sr64, ofBytes b0 b1 b2 b3 b4 b5 b6 b7) := by
  unfold rowOfBytes
  split_ifs <;> simp [encode, markerOf, *]

/-- Decoding undoes encoding. For a frame-detector row well-formedness is what keeps a longer frame from winning (R85);
for every other operation the word alone decides. -/
theorem decode_encode_of_wf (i : Instr) (h : i.wf = true) : decode (encode i).1 (encode i).2 = .ok i := by
  cases i with
  | fdMatch5 | fdMatch4 | fdMatch3 | fdMatch2 | fdMatch1 | fdNone =>
    refine (decode_ofBytes ..).trans (congrArg _ ?_)
    simp_all [Instr.wf, rowOfBytes, markerOf]
  | decWait tick => exact decode_encode_decWait tick
  | dqPush d => exact decode_encode_dqPush d
  | histRd a => exact decode_encode_histRd a
  | _ => decide

namespace Machine

/-! ### The message of a frame (R59, R86) -/

/-- A scan over falling lengths that finds a word: the longest of them whose marker stands at its offset built it
(R85). -/
theorem detectFrom_found {sr : ShiftReg} {w : MsgWord} {lens : List Nat} (hfall : lens.Pairwise (· > ·))
    (h : detectFrom sr lens = .found w) :
    ∃ len ∈ lens, byteAt sr (5 - len) = markerOf (BitVec.ofNat 8 len) ∧ buildMsgAt sr len = .found w ∧
      ∀ longer ∈ lens, len < longer → byteAt sr (5 - longer) ≠ markerOf (BitVec.ofNat 8 longer) := by
  induction lens with
  | nil => cases h
  | cons l lens ih =>
    obtain ⟨hhead, htail⟩ := List.pairwise_cons.mp hfall
    rw [detectFrom] at h
    split at h
    · next hm =>
      refine ⟨l, List.mem_cons_self, hm, h, fun longer hl hlt => ?_⟩
      rcases List.mem_cons.mp hl with rfl | hl
      · exact absurd hlt (Nat.lt_irrefl _)
      · exact absurd hlt (Nat.lt_asymm (hhead longer hl))
    · next hm =>
      obtain ⟨len, hmem, hmark, hbuild, hno⟩ := ih htail h
      refine ⟨len, List.mem_cons_of_mem _ hmem, hmark, hbuild, List.forall_mem_cons.mpr ⟨fun _ => hm, hno⟩⟩

/-- The lengths that a scan tries (R69, R85). -/
theorem mem_detect_lengths {l : Nat} : l ∈ [5, 4, 3, 2, 1] ↔ 1 ≤ l ∧ l ≤ 5 := by
  simp only [List.mem_cons, List.not_mem_nil, or_false]
  omega

/-- The length check of BuildMsg passes for a marker of R57; the word is that of R59. -/
theorem buildMsgAt_of_marker {sr : ShiftReg} {len : Nat} (h1 : 1 ≤ len) (h5 : len ≤ 5)
    (hm : byteAt sr (5 - len) = markerOf (BitVec.ofNat 8 len)) :
    buildMsgAt sr len = .found (packMsg (BitVec.ofNat 3 len) (byteAt sr (6 - len)) (byteAt sr (7 - len))
      (framePayload sr len 0) (framePayload sr len 1) (framePayload sr len 2) (framePayload sr len 3)
      (framePayload sr len 4)) := by
  rw [buildMsgAt, hm]
  interval_cases len <;> rfl

section packMsg

variable (len : BitVec 3) (src dest p0 p1 p2 p3 p4 : Byte)

theorem msgLen_packMsg : msgLen (packMsg len src dest p0 p1 p2 p3 p4) = len := by
  rw [packMsg, msgLen_ofBytes]
  revert len
  decide

theorem msgReserved_packMsg : msgReserved (packMsg len src dest p0 p1 p2 p3 p4) = 0 := by
  rw [packMsg, msgReserved_ofBytes]
  revert len
  decide

theorem msgSrc_packMsg : msgSrc (packMsg len src dest p0 p1 p2 p3 p4) = src := by
  obtain ⟨-, e, -⟩ := byteAt_ofBytes (len.zeroExtend 8) src dest p0 p1 p2 p3 p4
  exact e

theorem msgDest_packMsg : msgDest (packMsg len src dest p0 p1 p2 p3 p4) = dest := by
  obtain ⟨-, -, e, -⟩ := byteAt_ofBytes (len.zeroExtend 8) src dest p0 p1 p2 p3 p4
  exact e

end packMsg

theorem msgPayload_packMsg (len : BitVec 3) (src dest : Byte) (p : Nat → Byte) {j : Nat} (h : j < 5) :
    msgPayload (packMsg len src dest (p 0) (p 1) (p 2) (p 3) (p 4)) j = p j := by
  obtain ⟨-, -, -, e0, e1, e2, e3, e4⟩ :=
    byteAt_ofBytes (len.zeroExtend 8) src dest (p 0) (p 1) (p 2) (p 3) (p 4)
  rw [msgPayload_eq_byteAt _ h]
  interval_cases j <;> assumption

/-! ### Recovery over a sequence of deltas (R66, R81) -/

theorem recoveredBits_cons (c : Decoder) (d : Delta) (ds : List Delta) :
    recoveredBits c.lastBit (d :: ds) =
      bitsOfBin c.lastBit (classify d) ++ recoveredBits (recover d c).lastBit ds := by
  rw [recoveredBits, recover_lastBit]

/-! ### The operations of a cycle, by the conditions of R62 to R64 -/

theorem State.mqValid_eq (s : State) : s.mqValid = decide (s.mq ≠ []) :=
  decide_eq_decide.mpr List.length_pos_iff

theorem State.dqFull_eq (s : State) : s.dqFull = decide (s.dq.length = 8) := beq_eq_decide ..

theorem State.dqReady_eq (s : State) : s.dqReady = decide (s.dq.length < 8) := rfl

theorem State.stalled_eq (s : State) : s.stalled = (s.ecs.holdValid && decide (s.dq.length = 8)) := by
  rw [State.stalled, State.dqFull_eq]

/-- With DELTA_SOURCE = ECS an edge while stalled is dropped (R63, R109). -/
theorem dropOps_ecs (p : PortsIn) {s : State} (h : s.params.deltaSource = .ecs) :
    dropOps p s = if p.edge && s.stalled then [.ecsDrop] else [] := by
  unfold dropOps
  rw [h, selected_ecsedge]
  cases p.edge <;> cases s.stalled <;> rfl

theorem dropOps_external (p : PortsIn) {s : State} (h : s.params.deltaSource = .external) : dropOps p s = [] := by
  unfold dropOps
  rw [h]

/-- With DELTA_SOURCE = ECS the held delta is pushed, an edge captured and a tick counted (R63). -/
theorem producerOps_ecs (p : PortsIn) {s : State} (h : s.params.deltaSource = .ecs) :
    producerOps p s =
      (if s.ecs.holdValid && !s.dqFull then [.ecsPush] else []) ++
      (if p.edge && !s.stalled then [.ecsEdge] else []) ++ (if p.usTick then [.ecsTick] else []) := by
  unfold producerOps
  rw [h, selected_ecspush, selected_ecsedge, selected_tick1]
  cases p.edge <;> cases s.stalled <;> rfl

/-- With DELTA_SOURCE = EXTERNAL an offered delta enters DQ (R64, R112). -/
theorem producerOps_external (p : PortsIn) {s : State} (h : s.params.deltaSource = .external) :
    producerOps p s = if p.dqWrValid && s.dqReady then [.dqPush p.dqWrData] else [] := by
  unfold producerOps
  rw [h, selected_hsDqPush]

/-! ### The STATUS word (R61) -/

/-- A bit of a word as a field of width 1. -/
theorem getLsbD_eq_extractLsb' {w : Nat} (x : BitVec w) (i : Nat) : x.getLsbD i = (x.extractLsb' i 1).getLsbD 0 := by
  simp

theorem bit_getLsbD_zero (b : Bool) : (bit b).getLsbD 0 = b := by cases b <;> rfl

end Machine
end Sys2Proof
end

section
/-! PROOFS. The statements of the encoding family (30_encoding.md), each from the laws above. -/

namespace Sys2Proof.Machine

/-- Settles O8: by format; a frame-detector row is the row its own bytes select. -/
theorem decodeOfEncodeIsTheOperation : Obligations.DecodeOfEncodeIsTheOperation :=
  decode_encode_of_wf

/-- Settles O9: a shift register is its eight bytes, and the row they select keeps all of them. -/
theorem everyShiftRegisterReencodes : Obligations.EveryShiftRegisterReencodes := by
  intro sr
  rw [← ofBytes_byteAt sr]
  exact ⟨_, decode_ofBytes .., rowOfBytes_wf .., encode_rowOfBytes ..⟩

/-- Settles O19, by induction on the deltas: one recovery shifts in the bits of its bin and leaves their last as LAST_BIT. -/
theorem recoveryShiftsInTheBits : Obligations.RecoveryShiftsInTheBits := by
  intro ds
  induction ds with
  | nil => exact fun c => ⟨rfl, (BitVec.add_zero _).symm⟩
  | cons d ds ih =>
    intro c
    obtain ⟨hsr, hcount⟩ := ih (recover d c)
    rw [List.foldl_cons, recoveredBits_cons]
    constructor
    · rw [hsr, recover_sr, List.foldl_append]
    · rw [hcount, recover_bitCount, List.length_append, BitVec.ofNat_add, BitVec.add_assoc]

/-- Settles O23: the scan takes the longest length whose marker matches and builds that frame's word. -/
theorem detectedMessageFields : Obligations.DetectedMessageFields := by
  intro sr w h
  obtain ⟨len, hmem, hmark, hbuild, hno⟩ := detectFrom_found (by decide) h
  obtain ⟨h1, h5⟩ := mem_detect_lengths.mp hmem
  rw [buildMsgAt_of_marker h1 h5 hmark, Scan.found.injEq] at hbuild
  subst hbuild
  have hpayload := fun j (hj : j < 5) => msgPayload_packMsg (BitVec.ofNat 3 len) (byteAt sr (6 - len))
    (byteAt sr (7 - len)) (framePayload sr len) hj
  refine ⟨len, h1, h5, ?_, hmark, fun l hl hl5 => hno l (mem_detect_lengths.mpr ⟨by omega, hl5⟩) hl, ?_⟩
  · rw [msgLen_packMsg, BitVec.toNat_ofNat]
    omega
  · rw [msgSrc_packMsg, msgDest_packMsg, msgReserved_packMsg]
    refine ⟨rfl, rfl, rfl, rfl, fun j hj => ?_, fun j hj hj5 => ?_, rfl⟩
    · rw [hpayload j (by omega), framePayload, if_pos hj]
    · rw [hpayload j hj5, framePayload, if_neg (by omega)]

/-- Settles O49: the plan is the two reads and then the operations that write registers, each selected by the fields of
its condition word. -/
theorem cycleOperationsByCondition : Obligations.CycleOperationsByCondition := by
  intro p s
  rw [plan_eq_readOps_append, readOps_eq]
  unfold writeOps
  refine ⟨fun hr => by rw [if_pos hr]; rfl, fun hr => ?_⟩
  rw [if_neg (by simp [hr]), selected_hsMqPop, State.mqValid_eq]
  cases hsrc : s.params.deltaSource with
  | ecs =>
    rw [dropOps_ecs p hsrc, producerOps_ecs p hsrc, State.stalled_eq, State.dqFull_eq]
    simp [and_comm, imp_iff_not_or]
  | external =>
    rw [dropOps_external p hsrc, producerOps_external p hsrc, State.dqReady_eq]
    simp [and_comm]

/-- Settles O5, by evaluating every code. -/
theorem stateAndFaultCodesAreExact : Obligations.StateAndFaultCodesAreExact := by
  refine ⟨rfl, rfl, rfl, rfl, by decide, rfl, rfl, rfl, by decide, fun f => ?_⟩
  cases f <;> rfl

/-- Settles O6: cutting out a field drops the fields below it one by one; the queue bounds keep both counts in their
fields. -/
theorem statusFieldsStandAtTheirBits : Obligations.StatusFieldsStandAtTheirBits := by
  intro s hdq hmq
  have hdq' : (BitVec.ofNat 4 s.dq.length).toNat = s.dq.length := Nat.mod_eq_of_lt (by omega)
  have hmq' : (BitVec.ofNat 3 s.mq.length).toNat = s.mq.length := Nat.mod_eq_of_lt (by omega)
  rw [getLsbD_eq_extractLsb', State.statusWord]
  simp (disch := omega) only [BitVec.extractLsb'_setWidth_of_le, BitVec.extractLsb'_append_eq_of_le, Nat.reduceSub,
    BitVec.extractLsb'_append_eq_right, BitVec.extractLsb'_eq_self, hdq', hmq', bit_getLsbD_zero, and_self]

/-- Settles O7, by evaluating the words. -/
theorem tableWordsDecodeToTheirRows : Obligations.TableWordsDecodeToTheirRows := by
  unfold Obligations.TableWordsDecodeToTheirRows
  decide

/-- Settles O10: the mask of each row compares one byte of SR. -/
theorem shiftRegisterRowByMarker : Obligations.ShiftRegisterRowByMarker := by
  intro sr
  rw [decode_sr64, decodeSr64_eq]

/-- Settles O11, by evaluating all 64 words. -/
theorem deccondRowsPartition : Obligations.DeccondRowsPartition := by
  unfold Obligations.DeccondRowsPartition
  decide

/-- Settles O18: the bin's code decodes to the bin's row, whose meaning is the bin's recovery. -/
theorem binCodeSelectsTheRecovery : Obligations.BinCodeSelectsTheRecovery := by
  intro d s
  unfold recover
  cases classify d
  case glitch => exact ⟨.clsGlitch, by decide, rfl⟩
  case repeat1 => exact ⟨.clsRepeat, by decide, rfl⟩
  case ambig => exact ⟨.clsAmbig, by decide, rfl⟩
  case double => exact ⟨.clsDouble, by decide, rfl⟩
  case idle => exact ⟨.clsIdle, by decide, rfl⟩

/-- Settles O33: the word's fields select one row, and each field is its condition. -/
theorem decodeRowByCondition : Obligations.DecodeRowByCondition := by
  intro p s
  rw [selected_deccond]
  congr 1
  cases s.decState with
  | idle => cases hq : s.dq <;> simp [deccondRow, State.dqNe, hq]
  | framing =>
    cases hq : s.dq <;> simp [deccondRow, State.dqNe, hq, State.expire, Config.giveupUs, Config.tTimeout]
  | emit => simp [deccondRow, State.mqNf, Config.mqDepth]
  | fault => rfl

end Sys2Proof.Machine
end

section
/-! PROOFS. Laws of bit recovery: where the bits of SR stand after a shift, the recovery of a delta whose bin is known, and
what glitches make of a consume and of an attempt. -/

namespace Sys2Proof.Machine

/-- The bit shifted in stands at bit 0 (R13). -/
theorem shiftIn_getLsbD_zero (sr : ShiftReg) (b : Bool) : (shiftIn sr b).getLsbD 0 = b := by
  simp [shiftIn, bit]

/-- The bits that were there move up by one, and the top bit is lost (R35). -/
theorem shiftIn_getLsbD_succ (sr : ShiftReg) (b : Bool) {i : Nat} (h : i < 63) :
    (shiftIn sr b).getLsbD (i + 1) = sr.getLsbD i := by
  simp [shiftIn, bit, show i + 1 < 64 by omega, BitVec.getLsbD_eq_getElem (show i < 64 by omega)]

/-- Of two bits shifted in, the older one stands at bit 1 (R78). -/
theorem shiftIn_shiftIn_getLsbD_one (sr : ShiftReg) (a b : Bool) : (shiftIn (shiftIn sr a) b).getLsbD 1 = a := by
  rw [shiftIn_getLsbD_succ _ _ (by decide), shiftIn_getLsbD_zero]

/-- Two bits shifted in move the bits that were there up by two. -/
theorem shiftIn_shiftIn_getLsbD (sr : ShiftReg) (a b : Bool) {i : Nat} (h : i < 62) :
    (shiftIn (shiftIn sr a) b).getLsbD (i + 2) = sr.getLsbD i := by
  rw [shiftIn_getLsbD_succ _ _ (by omega), shiftIn_getLsbD_succ _ _ (by omega)]

/-- Recovery takes the row of the delta's bin (R74). -/
theorem recover_of_classify {d : Delta} {k : Bin} (h : classify d = k) (c : Decoder) : recover d c = recoverBin k c := by
  rw [recover, h]

/-- SR after the recovery of a delta whose bin is known (R66). -/
theorem recover_sr_of_classify {d : Delta} {k : Bin} (h : classify d = k) (c : Decoder) :
    (recover d c).sr = (bitsOfBin c.lastBit k).foldl shiftIn c.sr := by
  rw [recover_sr, h]

/-- A glitch leaves the decoder as it is (R75). -/
theorem recover_of_glitch {d : Delta} (h : classify d = .glitch) (c : Decoder) : recover d c = c :=
  recover_of_classify h c

/-- A glitch offered to a decoder with room whose SR holds no message is appended, and nothing else happens (R75, R101). -/
theorem consume_of_glitch {d : Delta} {c : Decoder} (h : classify d = .glitch) (hscan : detect c.sr = .none)
    (hroom : c.histLen.toNat ≠ 64) : consume d c = (.none, appendHist d c) := by
  rw [consume_room hroom, recover_of_glitch h, hscan]
  rfl

/-- Glitches that fit into the history answer nothing and leave SR and BIT_COUNT (R82). -/
theorem attempt_of_glitches {ds : List Delta} {c : Decoder} (h : ∀ d ∈ ds, classify d = .glitch)
    (hscan : detect c.sr = .none) (hroom : c.histLen.toNat + ds.length ≤ 64) :
    (attempt ds c).1 = .none ∧ (attempt ds c).2.sr = c.sr ∧ (attempt ds c).2.bitCount = c.bitCount := by
  induction ds generalizing c with
  | nil => exact ⟨rfl, rfl, rfl⟩
  | cons d ds ih =>
    obtain ⟨hd, hds⟩ := List.forall_mem_cons.mp h
    rw [List.length_cons] at hroom
    have hlen : (appendHist d c).histLen.toNat = c.histLen.toNat + 1 := histLen_succ (by omega)
    rw [attempt_cons_none (consume_of_glitch hd hscan (by omega))]
    exact ih (c := appendHist d c) hds hscan (by omega)

end Sys2Proof.Machine
end

section
/-! PROOFS. The statements of the bit-recovery family (40_bit_recovery.md), each from the laws above. -/

namespace Sys2Proof.Machine

/-- Settles O12: each of the five ways through the comparisons fixes the range. -/
theorem classifierRanges : Obligations.ClassifierRanges := by
  intro d
  simp only [classify, Config.tOne, Config.tOneFive, Config.tTwo, Config.tTimeout]
  split_ifs <;> simp <;> omega

/-- Settles O26: the seed holds no message and glitches leave it, so every one of them is appended. -/
theorem glitchesRecoverNoBits : Obligations.GlitchesRecoverNoBits := by
  intro ds c hd hlen
  have hzero : (newAttempt c).histLen.toNat = 0 := by simp
  have hscan : detect (newAttempt c).sr = .none := by
    rw [newAttempt_sr]
    decide
  obtain ⟨hnone, hsr, hcount⟩ := attempt_of_glitches
    (fun d hmem => (classifierRanges d).1.mpr (hd d hmem)) hscan (by omega)
  refine ⟨hnone, hsr, hcount, ?_⟩
  rw [attempt_histLen_of_none (by omega) hnone, hzero, Nat.zero_add]

/-- Settles O13: the delta is a glitch, whose row is the identity. -/
theorem glitchRecoversNothing : Obligations.GlitchRecoversNothing := by
  intro d s hle
  exact ⟨recover_of_glitch ((classifierRanges d).1.mpr hle) s.dec, rfl⟩

/-- Settles O14: one shift, of LAST_BIT. -/
theorem repeatShiftsInLastBit : Obligations.RepeatShiftsInLastBit := by
  intro d s hlo hhi
  obtain ⟨-, hrange, -⟩ := classifierRanges d
  have hrec : recover d s.dec = recoverRepeat s.dec := recover_of_classify (hrange.mpr ⟨hlo, hhi⟩) s.dec
  have hsr : (recoverRepeat s.dec).sr = shiftIn s.dec.sr s.dec.lastBit := rfl
  refine ⟨_, hrec, rfl, rfl, ?_, fun i hi => ?_⟩ <;> rw [hsr]
  · exact shiftIn_getLsbD_zero ..
  · exact shiftIn_getLsbD_succ _ _ hi

/-- Settles O15: two shifts of 0 after a 1, one shift of 1 after a 0. -/
theorem ambigInvertsLastBit : Obligations.AmbigInvertsLastBit := by
  intro d s hlo hhi
  obtain ⟨-, -, hrange, -⟩ := classifierRanges d
  have hbin := hrange.mpr ⟨hlo, hhi⟩
  have hsr := recover_sr_of_classify hbin s.dec
  have hcount := recover_bitCount d s.dec
  have hlast := recover_lastBit d s.dec
  rw [hbin] at hcount hlast
  refine ⟨_, rfl, by rw [recover_of_classify hbin]; rfl, recover_hist d _, recover_histLen d _, ?_⟩
  cases hb : s.dec.lastBit <;> rw [hb] at hsr hcount hlast
  case true =>
    refine ⟨hlast, fun _ => ⟨hcount, ?_, fun i hi => ?_⟩, nofun⟩ <;> rw [hsr]
    · exact shiftIn_shiftIn_getLsbD_one ..
    · exact shiftIn_shiftIn_getLsbD _ _ _ hi
  case false =>
    refine ⟨hlast, nofun, fun _ => ⟨hcount, fun i hi => ?_⟩⟩
    rw [hsr]
    exact shiftIn_getLsbD_succ _ _ hi

/-- Settles O16: two shifts, of 0 and then of 1. -/
theorem doubleShiftsInZeroOne : Obligations.DoubleShiftsInZeroOne := by
  intro d s hlo hhi
  obtain ⟨-, -, -, hrange, -⟩ := classifierRanges d
  have hbin := hrange.mpr ⟨hlo, hhi⟩
  have hrec : recover d s.dec = recoverDouble s.dec := recover_of_classify hbin s.dec
  have hsr := recover_sr_of_classify hbin s.dec
  rw [hrec] at hsr
  refine ⟨_, hrec, rfl, rfl, ?_, ?_, fun i hi => ?_⟩ <;> rw [hsr]
  · exact shiftIn_getLsbD_zero ..
  · exact shiftIn_shiftIn_getLsbD_one ..
  · exact shiftIn_shiftIn_getLsbD _ _ _ hi

/-- Settles O17: one shift, of 0. -/
theorem idleShiftsInZero : Obligations.IdleShiftsInZero := by
  intro d s hlo
  obtain ⟨-, -, -, -, hrange⟩ := classifierRanges d
  have hbin := hrange.mpr hlo
  have hrec : recover d s.dec = recoverIdle s.dec := recover_of_classify hbin s.dec
  have hsr := recover_sr_of_classify hbin s.dec
  rw [hrec] at hsr
  refine ⟨_, hrec, rfl, rfl, ?_, fun i hi => ?_⟩ <;> rw [hsr]
  · exact shiftIn_getLsbD_zero ..
  · exact shiftIn_getLsbD_succ _ _ hi

end Sys2Proof.Machine
end

section
/-! PROOFS. Laws of frame detection: when a scan finds nothing and when it finds a given frame, where shifted-in bits and
bytes stand in SR, where a marker can stand in a fresh attempt's SR, and what an attempt makes of its deltas' bits. -/

namespace Sys2Proof.Machine

/-! ### When a scan finds a frame and when it finds nothing (R85, R86) -/

/-- The length check passes for a marker of R57, and the marker's low bits become the LEN byte (R86). -/
theorem buildMsg_markerOf {len : Nat} (h1 : 1 ≤ len) (h5 : len ≤ 5) (src dest p0 p1 p2 p3 p4 : Byte) :
    buildMsg (markerOf (BitVec.ofNat 8 len)) src dest p0 p1 p2 p3 p4 =
      .found (ofBytes (BitVec.ofNat 8 len) src dest p0 p1 p2 p3 p4) := by
  interval_cases len <;> rfl

/-- What a frame-detector row with a marker of R57 answers: the message on the detector's net, and no other change
(R87). -/
theorem next_setScan_buildMsg {len : Nat} (h1 : 1 ≤ len) (h5 : len ≤ 5) (src dest p0 p1 p2 p3 p4 : Byte) (s : State) :
    (.next (setScan (buildMsg (markerOf (BitVec.ofNat 8 len)) src dest p0 p1 p2 p3 p4) s) : Result) =
      .next { s with nets :=
        { s.nets with scan := .found (ofBytes (BitVec.ofNat 8 len) src dest p0 p1 p2 p3 p4) } } := by
  rw [buildMsg_markerOf h1 h5]
  rfl

theorem buildMsgAt_ne_none (sr : ShiftReg) (len : Nat) : buildMsgAt sr len ≠ .none := by
  unfold buildMsgAt buildMsg
  dsimp only
  split <;> nofun

/-- A scan finds nothing exactly when no length it tries has its marker at its offset. -/
theorem detectFrom_eq_none {sr : ShiftReg} {lens : List Nat} :
    detectFrom sr lens = .none ↔ ∀ len ∈ lens, byteAt sr (5 - len) ≠ markerOf (BitVec.ofNat 8 len) := by
  induction lens with
  | nil => simp [detectFrom]
  | cons len lens ih =>
    rw [detectFrom, List.forall_mem_cons]
    split
    · next hmark => exact iff_of_false (buildMsgAt_ne_none sr len) fun h => h.1 hmark
    · next hmark => exact ih.trans (and_iff_right hmark).symm

theorem detect_eq_none {sr : ShiftReg} :
    detect sr = .none ↔ ∀ len, 1 ≤ len → len ≤ 5 → byteAt sr (5 - len) ≠ markerOf (BitVec.ofNat 8 len) :=
  detectFrom_eq_none.trans
    ⟨fun h len h1 h5 => h len (mem_detect_lengths.mpr ⟨h1, h5⟩),
      fun h len hmem => h len (mem_detect_lengths.mp hmem).1 (mem_detect_lengths.mp hmem).2⟩

/-- A scan takes the frame whose marker stands at its offset when no longer frame's does. -/
theorem detect_of_marker {sr : ShiftReg} {len : Nat} (h1 : 1 ≤ len) (h5 : len ≤ 5)
    (hmark : byteAt sr (5 - len) = markerOf (BitVec.ofNat 8 len))
    (hlonger : ∀ l, len < l → l ≤ 5 → byteAt sr (5 - l) ≠ markerOf (BitVec.ofNat 8 l)) :
    detect sr = buildMsgAt sr len := by
  have hfound := buildMsgAt_of_marker h1 h5 hmark
  cases hscan : detect sr with
  | none => exact absurd hmark (detect_eq_none.mp hscan len h1 h5)
  | badLen => exact absurd hscan (detect_ne_badLen sr)
  | found w =>
    obtain ⟨l, hmem, hl, hbuild, hno⟩ := detectFrom_found (by decide) hscan
    obtain ⟨hl1, hl5⟩ := mem_detect_lengths.mp hmem
    rcases Nat.lt_trichotomy len l with hlt | rfl | hgt
    · exact absurd hl (hlonger l hlt hl5)
    · exact hbuild.symm
    · exact absurd hmark (hno len (mem_detect_lengths.mpr ⟨h1, h5⟩) hgt)

/-! ### Bits and bytes shifted into SR (R13, R35, R36) -/

/-- After some bits are shifted in, the newest stand at the low end and above them the bits of before. -/
theorem foldl_shiftIn_getLsbD (bits : List Bool) (sr : ShiftReg) {p : Nat} (hp : p < 64) :
    (bits.foldl shiftIn sr).getLsbD p = bits.reverse.getD p (sr.getLsbD (p - bits.length)) := by
  induction bits using List.reverseRecOn generalizing p with
  | nil => simp
  | append_singleton bits b ih =>
    rw [List.foldl_append, List.reverse_append]
    cases p with
    | zero => exact shiftIn_getLsbD_zero ..
    | succ p => simpa using (shiftIn_getLsbD_succ (bits.foldl shiftIn sr) b (by omega)).trans (ih (by omega))

/-- Above the bits shifted in stand the bits of before. -/
theorem foldl_shiftIn_getLsbD_of_le {bits : List Bool} (sr : ShiftReg) {p : Nat} (hle : bits.length ≤ p) (hp : p < 64) :
    (bits.foldl shiftIn sr).getLsbD p = sr.getLsbD (p - bits.length) := by
  rw [foldl_shiftIn_getLsbD bits sr hp, List.getD_eq_default _ _ (by simpa using hle)]

theorem length_bitsOf (b : Byte) : (bitsOf b).length = 8 := rfl

theorem length_flatMap_bitsOf (bytes : List Byte) : (bytes.flatMap bitsOf).length = 8 * bytes.length := by
  simp [List.length_flatMap, length_bitsOf, Nat.mul_comm]

theorem byteAt_getLsbD (sr : ShiftReg) (i : Nat) {q : Nat} (hq : q < 8) :
    (byteAt sr i).getLsbD q = sr.getLsbD (56 - 8 * i + q) := by
  simp [byteAt, hq]

/-- The byte shifted in is byte 7 of SR (R13). -/
theorem byteAt_shiftInByte_last (sr : ShiftReg) (b : Byte) : byteAt ((bitsOf b).foldl shiftIn sr) 7 = b := by
  apply BitVec.eq_of_getLsbD_eq
  intro q hq
  rw [byteAt_getLsbD _ _ hq, foldl_shiftIn_getLsbD _ _ (by omega)]
  interval_cases q <;> rfl

/-- The bytes that were there move one place towards byte 0 (R35). -/
theorem byteAt_shiftInByte (sr : ShiftReg) (b : Byte) {i : Nat} (hi : i < 7) :
    byteAt ((bitsOf b).foldl shiftIn sr) i = byteAt sr (i + 1) := by
  apply BitVec.eq_of_getLsbD_eq
  intro q hq
  rw [byteAt_getLsbD _ _ hq, byteAt_getLsbD _ _ hq,
    foldl_shiftIn_getLsbD_of_le _ (by rw [length_bitsOf]; omega) (by omega), length_bitsOf]
  congr 1
  omega

/-- Bytes shifted in are the last bytes of SR, in their order (R36). -/
theorem byteAt_shiftInBytes (sr : ShiftReg) {bytes : List Byte} {i j : Nat} (hi : i < 8)
    (hj : i + bytes.length = 8 + j) : byteAt ((bytes.flatMap bitsOf).foldl shiftIn sr) i = bytes.getD j 0 := by
  rw [List.foldl_flatMap]
  induction bytes using List.reverseRecOn generalizing i with
  | nil => exact absurd hj (by simp; omega)
  | append_singleton bytes b ih =>
    rw [List.length_append, List.length_singleton] at hj
    rw [List.foldl_append, List.foldl_cons, List.foldl_nil]
    rcases Nat.lt_or_eq_of_le (Nat.le_of_lt_succ hi) with hlt | rfl
    · rw [byteAt_shiftInByte _ b hlt, ih (i := i + 1) (by omega) (by omega), List.getD_append _ _ _ _ (by omega)]
    · obtain rfl : j = bytes.length := by omega
      rw [byteAt_shiftInByte_last, List.getD_append_right _ _ _ _ le_rfl, Nat.sub_self]
      rfl

/-! ### Where a marker can stand in the SR of a fresh attempt (R95, R97, R98) -/

/-- A marker begins with a 1, so none stands above the seed: the length `len` needs 23 + 8 * `len` bits (R95). -/
theorem marker_needs_bits {bits : List Bool} {len : Nat} (h5 : len ≤ 5)
    (hmark : byteAt (bits.foldl shiftIn 1) (5 - len) = markerOf (BitVec.ofNat 8 len)) : 23 + 8 * len ≤ bits.length := by
  by_contra hshort
  have htop : (markerOf (BitVec.ofNat 8 len)).getLsbD 7 = true := by interval_cases len <;> rfl
  rw [← hmark, byteAt_getLsbD _ _ (by decide), foldl_shiftIn_getLsbD_of_le _ (by omega) (by omega)] at htop
  rw [show (1 : ShiftReg) = 1#64 from rfl, BitVec.getLsbD_one, Bool.and_eq_true, decide_eq_true_eq,
    decide_eq_true_eq] at htop
  omega

/-- Fewer than 31 bits hold no frame (R95). -/
theorem detect_of_few_bits {bits : List Bool} (h : bits.length < 31) : detect (bits.foldl shiftIn 1) = .none :=
  detect_eq_none.mpr fun len h1 h5 hmark => by
    have := marker_needs_bits h5 hmark
    omega

/-- The bits of a frame in a fresh SR hold the frame's message: its marker stands at its offset, and a longer frame's
would stand above the seed (R86, R97). -/
theorem detect_frame {src dest : Byte} {payload : List Byte} (h1 : 1 ≤ payload.length) (h5 : payload.length ≤ 5) :
    detect (((markerOf (BitVec.ofNat 8 payload.length) :: src :: dest :: payload).flatMap bitsOf).foldl shiftIn 1) =
      .found (frameWord src dest payload) := by
  generalize hframe : markerOf (BitVec.ofNat 8 payload.length) :: src :: dest :: payload = bytes
  have hlen : bytes.length = payload.length + 3 := hframe ▸ rfl
  have hbits := length_flatMap_bitsOf bytes
  have hbyte := fun i j => byteAt_shiftInBytes (i := i) (j := j) 1 (bytes := bytes)
  have hlonger : ∀ l, payload.length < l → l ≤ 5 →
      byteAt ((bytes.flatMap bitsOf).foldl shiftIn 1) (5 - l) ≠ markerOf (BitVec.ofNat 8 l) := fun l hlt hl5 hl => by
    have := marker_needs_bits hl5 hl
    omega
  generalize (bytes.flatMap bitsOf).foldl shiftIn 1 = sr at *
  have hmark : byteAt sr (5 - payload.length) = markerOf (BitVec.ofNat 8 payload.length) := by
    rw [hbyte _ 0 (by omega) (by omega), ← hframe]; rfl
  have hsrc : byteAt sr (6 - payload.length) = src := by
    rw [hbyte _ 1 (by omega) (by omega), ← hframe]; rfl
  have hdest : byteAt sr (7 - payload.length) = dest := by
    rw [hbyte _ 2 (by omega) (by omega), ← hframe]; rfl
  have hpayload : ∀ j, framePayload sr payload.length j = payload.getD j 0 := fun j => by
    unfold framePayload
    split
    · rw [hbyte _ (j + 3) (by omega) (by omega), ← hframe]; rfl
    · exact (List.getD_eq_default _ _ (by omega)).symm
  rw [detect_of_marker h1 h5 hmark hlonger, buildMsgAt_of_marker h1 h5 hmark, hsrc, hdest]
  simp only [hpayload]
  rfl

/-- The seed and the marker of a short frame with `n` bits after them, read at a window of the marker of `len`: before
the frame is complete, a bit of the window that lies in them differs. -/
theorem marker_window_differs {L len n : Nat} (hL1 : 1 ≤ L) (hL2 : L ≤ 2) (hlen : 1 ≤ len) (hn : 15 + 8 * len ≤ n)
    (hn' : n < 16 + 8 * L) :
    ∃ q < 8, n ≤ 16 + 8 * len + q ∧ (markerOf (BitVec.ofNat 8 len)).getLsbD q ≠
      ((bitsOf (markerOf (BitVec.ofNat 8 L))).foldl shiftIn 1).getLsbD (16 + 8 * len + q - n) := by
  have hlen2 : len ≤ 2 := by omega
  interval_cases L <;> interval_cases len <;> interval_cases n <;> decide

/-- The bits of a frame of one or two payload bytes hold no message before they are complete (R98). -/
theorem detect_short_frame_prefix {L : Nat} (h1 : 1 ≤ L) (h2 : L ≤ 2) {bits rest : List Bool}
    (hprefix : bits <+: bitsOf (markerOf (BitVec.ofNat 8 L)) ++ rest) (hlen : bits.length < 24 + 8 * L) :
    detect (bits.foldl shiftIn 1) = .none := by
  refine detect_eq_none.mpr fun len hlen1 hlen5 hmark => ?_
  have hneed := marker_needs_bits hlen5 hmark
  obtain ⟨more, rfl⟩ : bitsOf (markerOf (BitVec.ofNat 8 L)) <+: bits :=
    List.prefix_of_prefix_length_le (List.prefix_append ..) hprefix (by rw [length_bitsOf]; omega)
  rw [List.length_append, length_bitsOf] at hlen hneed
  obtain ⟨q, hq, hle, hne⟩ := marker_window_differs h1 h2 hlen1 (n := more.length) (by omega) (by omega)
  apply hne
  rw [← hmark, byteAt_getLsbD _ _ hq, List.foldl_append, show 56 - 8 * (5 - len) + q = 16 + 8 * len + q by omega,
    foldl_shiftIn_getLsbD_of_le _ hle (by omega)]

/-! ### The bits of a sequence of deltas (R66, R81) -/

theorem recoveredBits_append (b : Bool) (ds es : List Delta) :
    ∃ b', recoveredBits b (ds ++ es) = recoveredBits b ds ++ recoveredBits b' es := by
  induction ds generalizing b with
  | nil => exact ⟨b, rfl⟩
  | cons d ds ih =>
    obtain ⟨b', e⟩ := ih ((bitsOfBin b (classify d)).getLastD b)
    exact ⟨b', by rw [List.cons_append, recoveredBits, e, recoveredBits, List.append_assoc]⟩

theorem length_recoveredBits_le (b : Bool) (ds : List Delta) : (recoveredBits b ds).length ≤ 2 * ds.length := by
  induction ds generalizing b with
  | nil => exact le_rfl
  | cons d ds ih =>
    have hd := bitsOfBin_length_le b (classify d)
    have hds := ih ((bitsOfBin b (classify d)).getLastD b)
    rw [recoveredBits, List.length_append, List.length_cons]
    omega

theorem bitsOfBin_length_pos (b : Bool) {k : Bin} (h : k ≠ .glitch) : 0 < (bitsOfBin b k).length := by
  cases k with
  | glitch => exact absurd rfl h
  | ambig => cases b <;> decide
  | _ => exact Nat.succ_pos _

/-- Every delta but a glitch brings a bit. -/
theorem length_le_recoveredBits (b : Bool) {ds : List Delta} (h : ∀ d ∈ ds, classify d ≠ .glitch) :
    ds.length ≤ (recoveredBits b ds).length := by
  induction ds generalizing b with
  | nil => exact le_rfl
  | cons d ds ih =>
    obtain ⟨hd, hds⟩ := List.forall_mem_cons.mp h
    have hpos := bitsOfBin_length_pos b hd
    have hle := ih ((bitsOfBin b (classify d)).getLastD b) hds
    rw [recoveredBits, List.length_append, List.length_cons]
    omega

/-- Fewer deltas bring the first of the bits; without a glitch among the deltas they bring fewer. -/
theorem recoveredBits_prefix (b : Bool) {ds es : List Delta} (hprefix : es <+: ds) (hlt : es.length < ds.length)
    (h : ∀ d ∈ ds, classify d ≠ .glitch) :
    recoveredBits b es <+: recoveredBits b ds ∧ (recoveredBits b es).length < (recoveredBits b ds).length := by
  obtain ⟨fs, rfl⟩ := hprefix
  obtain ⟨b', e⟩ := recoveredBits_append b es fs
  have hpos := length_le_recoveredBits b' fun d hd => h d (List.mem_append_right es hd)
  rw [List.length_append] at hlt
  rw [e, List.length_append]
  exact ⟨List.prefix_append .., by omega⟩

/-! ### What an attempt makes of the bits -/

theorem attempt_singleton (d : Delta) (c : Decoder) : attempt [d] c = consume d c := by
  rw [attempt_cons, attempt_nil]
  split
  · next h => exact Prod.ext h.symm rfl
  · rfl

/-- An attempt that has answered takes no further delta. -/
theorem attempt_append_end {ds : List Delta} {c : Decoder} (h : (attempt ds c).1 ≠ .none) (es : List Delta) :
    attempt (ds ++ es) c = attempt ds c := by
  induction ds generalizing c with
  | nil => exact absurd rfl h
  | cons d ds ih =>
    rw [attempt_cons] at h
    rw [List.cons_append, attempt_cons, attempt_cons]
    split_ifs at h ⊢
    · exact ih h
    · rfl

/-- An attempt appends no more entries than it is offered deltas. -/
theorem attempt_histLen_le (ds : List Delta) {c : Decoder} (hb : c.histLen.toNat ≤ 64) :
    (attempt ds c).2.histLen.toNat ≤ c.histLen.toNat + ds.length := by
  induction ds generalizing c with
  | nil => exact le_rfl
  | cons d ds ih =>
    have hstep : (consume d c).2.histLen.toNat ≤ c.histLen.toNat + 1 := by
      by_cases hf : c.histLen.toNat = 64
      · rw [consume_full hf]
        exact Nat.le_succ _
      · exact (consume_histLen d c (by omega)).le
    have hds := ih (consume_histLen_bounds (d := d) hb).2
    rw [attempt_cons, List.length_cons]
    split <;> omega

/-- The last delta of an attempt that has answered nothing before it, with room: the answer is what a scan of all the
bits gives (R66, R101). -/
theorem attempt_concat {ds : List Delta} {c : Decoder} (h : (attempt ds c).1 = .none)
    (hroom : c.histLen.toNat + ds.length < 64) (d : Delta) :
    (attempt (ds ++ [d]) c).1 = consumedOf (detect ((recoveredBits c.lastBit (ds ++ [d])).foldl shiftIn c.sr)) ∧
    (attempt (ds ++ [d]) c).2.histLen.toNat = c.histLen.toNat + (ds.length + 1) := by
  induction ds generalizing c with
  | nil =>
    rw [List.nil_append, attempt_singleton, recoveredBits_cons, List.foldl_append, ← recover_sr]
    exact ⟨by rw [consume_room (by omega)]; rfl, consume_histLen d c hroom⟩
  | cons e ds ih =>
    rw [List.length_cons] at hroom ⊢
    rw [attempt_cons] at h
    split at h
    · next he =>
      have hlen := consume_histLen e c (by omega)
      obtain ⟨hans, hend⟩ := ih h (by omega)
      rw [List.cons_append, attempt_cons, if_pos he, recoveredBits_cons, List.foldl_append, ← recover_sr]
      refine ⟨hans.trans ?_, by omega⟩
      rw [consume_room (by omega)]
      rfl
    · next he => exact absurd h he

/-- An attempt whose deltas, first to last, never bring SR to a frame answers nothing, up to 64 of them. -/
theorem attempt_none_of_scans {ds : List Delta} {c : Decoder} (hroom : c.histLen.toNat + ds.length ≤ 64)
    (hscan : ∀ es, es <+: ds → detect ((recoveredBits c.lastBit es).foldl shiftIn c.sr) = .none) :
    (attempt ds c).1 = .none := by
  induction ds using List.reverseRecOn with
  | nil => rfl
  | append_singleton ds d ih =>
    rw [List.length_append, List.length_singleton] at hroom
    have hinit := ih (by omega) fun es hes => hscan es (hes.trans (List.prefix_append ..))
    rw [(attempt_concat hinit (by omega) d).1, hscan _ (List.prefix_refl _)]
    rfl

theorem newAttempt_lastBit (c : Decoder) : (newAttempt c).lastBit = true := by
  show (1#64).getLsbD 0 = true
  decide

/-- A fresh attempt whose bits never hold a frame answers nothing. -/
theorem freshAttempt_none_of_scans {ds : List Delta} (c : Decoder) (hroom : ds.length ≤ 64)
    (hscan : ∀ es, es <+: ds → detect ((recoveredBits true es).foldl shiftIn 1) = .none) :
    (attempt ds (newAttempt c)).1 = .none := by
  refine attempt_none_of_scans (by simpa using hroom) ?_
  rwa [newAttempt_lastBit, newAttempt_sr]

end Sys2Proof.Machine
end

section
/-! PROOFS. The statements of the frame-detector family (41_frame_detector.md), each from the laws above. -/

namespace Sys2Proof.Machine

/-- Settles O31: with no answer before the last delta its scan sees the whole frame; an earlier answer would have ended
the attempt with fewer entries in HIST. -/
theorem framesRoundTripUnlessMisread : Obligations.FramesRoundTripUnlessMisread := by
  intro ds c src dest payload h1 h5 hglitch hbits
  have hzero : (newAttempt c).histLen.toNat = 0 := by simp
  have hlen := length_le_recoveredBits true hglitch
  rw [hbits, length_flatMap_bitsOf, List.length_cons, List.length_cons, List.length_cons] at hlen
  constructor
  · rintro ⟨-, hall⟩ k hk
    by_contra hans
    rw [← List.take_append_drop k ds, attempt_append_end hans] at hall
    have := attempt_histLen_le (ds.take k) (c := newAttempt c) (by omega)
    rw [List.take_append_drop, List.length_take] at *
    omega
  · intro hnone
    obtain rfl | ⟨init, d, rfl⟩ := List.eq_nil_or_concat' ds
    · cases hbits
    · have hinit := hnone init.length (by simp)
      rw [List.take_left] at hinit
      rw [List.length_append, List.length_singleton] at hlen ⊢
      obtain ⟨hans, hend⟩ := attempt_concat hinit (by omega) d
      rw [newAttempt_lastBit, newAttempt_sr, hbits, detect_frame h1 h5] at hans
      exact ⟨hans, by omega⟩

/-- Settles O32: no scan before the last delta sees a message, so O31 applies. -/
theorem shortFramesRoundTrip : Obligations.ShortFramesRoundTrip := by
  intro ds c src dest payload h1 h2 hglitch hbits
  refine (framesRoundTripUnlessMisread ds c src dest payload h1 (by omega) hglitch hbits).mpr fun k hk => ?_
  have hlen := length_le_recoveredBits true hglitch
  have htotal := congrArg List.length hbits
  rw [length_flatMap_bitsOf, List.length_cons, List.length_cons, List.length_cons] at htotal
  refine freshAttempt_none_of_scans c (by rw [List.length_take]; omega) fun es hes => ?_
  have hshort := hes.length_le
  rw [List.length_take] at hshort
  obtain ⟨hprefix, hlt⟩ := recoveredBits_prefix true (hes.trans (List.take_prefix k ds)) (by omega) hglitch
  rw [hbits, List.flatMap_cons] at hprefix
  exact detect_short_frame_prefix h1 h2 hprefix (by omega)

/-- Settles O22, from the scan over the five lengths. -/
theorem noMessageWithoutMarker : Obligations.NoMessageWithoutMarker :=
  fun _ => detect_eq_none

/-- Settles O29: fewer than 16 deltas bring at most 30 bits, and a frame needs 31. -/
theorem noMatchBeforeSixteenConsumes : Obligations.NoMatchBeforeSixteenConsumes := by
  intro ds c hlt
  refine freshAttempt_none_of_scans c (by omega) fun es hes => detect_of_few_bits ?_
  have hle := hes.length_le
  have hbits := length_recoveredBits_le true es
  omega

/-- Settles O56: in FRAMING the last scan found nothing, and a glitch leaves the SR it saw; a full history faults. -/
theorem glitchNeverCompletesAFrame : Obligations.GlitchNeverCompletesAFrame := by
  intro s d rest hinv hrst hst hdq hd
  obtain ⟨nets, hstep⟩ := step_eq_parallelCycle s hinv.dqBound
  have hcase : decodeCase s.pin (pulseless s) = (outcomeCase (consume d s.dec) false (pulseless s), true, false) := by
    simp [decodeCase, pulseless, hst, hdq]
  refine ⟨_, hstep, ?_⟩
  rw [parallelCycle_no_rst s hrst, hcase]
  by_cases hfull : s.dec.histLen.toNat = 64
  · rw [consume_full hfull]
    exact ⟨nofun, rfl, rfl⟩
  · rw [consume_of_glitch ((classifierRanges d).1.mpr hd) (hinv.framingScan hst) hfull]
    exact ⟨nofun, rfl, rfl⟩

/-- Settles O20: each row hands its operands to BuildMsg with the marker of its length, whose check passes. -/
theorem frameRowsReturnTheirMessage : Obligations.FrameRowsReturnTheirMessage := by
  intro s b0 b1 b2 b3 b4 b5 b6 b7 src dest p0 p1 p2 p3 p4
  refine ⟨?match5, ?match4, ?match3, ?match2, ?match1, rfl⟩
  case match5 => exact next_setScan_buildMsg (len := 5) (by decide) (by decide) src dest p0 p1 p2 p3 p4 s
  case match4 => exact next_setScan_buildMsg (len := 4) (by decide) (by decide) src dest p0 p1 p2 p3 0 s
  case match3 => exact next_setScan_buildMsg (len := 3) (by decide) (by decide) src dest p0 p1 p2 0 0 s
  case match2 => exact next_setScan_buildMsg (len := 2) (by decide) (by decide) src dest p0 p1 0 0 0 s
  case match1 => exact next_setScan_buildMsg (len := 1) (by decide) (by decide) src dest p0 0 0 0 0 s

/-- Settles O21: the row and the scan compare the same five bytes in the same order, and each row builds the scan's
message. -/
theorem selectedRowReturnsTheScan : Obligations.SelectedRowReturnsTheScan := by
  intro sr s
  refine ⟨_, decode_sr64 sr, ?_⟩
  rw [decodeSr64_eq, detect_eq]
  split_ifs <;> rfl

end Sys2Proof.Machine
end

section
/-! PROOFS. Laws of the Comms Decoder: the SR of an attempt without an answer, an SR of nothing but the lowest ones, and
what a pop, a consume and DEC_START leave alone. -/

namespace Sys2Proof.Machine

/-! ### The SR of an attempt (R66, R102) -/

/-- An attempt that has answered nothing has shifted in the bits of all its deltas (R66, R101). -/
theorem attempt_sr_of_none {ds : List Delta} {c : Decoder} (h : (attempt ds c).1 = .none) :
    (attempt ds c).2.sr = (recoveredBits c.lastBit ds).foldl shiftIn c.sr := by
  induction ds generalizing c with
  | nil => rfl
  | cons d ds ih =>
    rw [attempt_cons] at h ⊢
    split at h
    · next hd =>
      have hstep : (consume d c).2 = appendHist d (recover d c) := by
        rw [consume_room (room_of_consume_none hd)]
      rw [if_pos hd, ih h, hstep, recoveredBits_cons, List.foldl_append, ← recover_sr]
      rfl
    · next hd => exact absurd h hd

/-- A marker has bit 7 set and bit 3 clear (R57), so none stands in an SR whose set bits are the lowest ones. -/
theorem detect_of_lowest_ones {sr : ShiftReg} {m : Nat} (h : sr.toNat = 2 ^ m - 1) : detect sr = .none := by
  refine detect_eq_none.mpr fun len h1 h5 hmark => ?_
  have hbit : ∀ p, sr.getLsbD p = decide (p < m) := fun p => by
    rw [BitVec.getLsbD, h, Nat.testBit_two_pow_sub_one]
  have hset : (markerOf (BitVec.ofNat 8 len)).getLsbD 7 = true := by interval_cases len <;> rfl
  have hclear : (markerOf (BitVec.ofNat 8 len)).getLsbD 3 = false := by interval_cases len <;> rfl
  rw [← hmark, byteAt_getLsbD _ _ (by decide), hbit] at hset hclear
  have := of_decide_eq_true hset
  have := of_decide_eq_false hclear
  omega

/-- Ones shifted in after the seed fill SR from the low end until it is full (R102). -/
theorem foldl_shiftIn_ones_toNat (k : Nat) :
    ((List.replicate k true).foldl shiftIn (1 : ShiftReg)).toNat = 2 ^ min (k + 1) 64 - 1 := by
  induction k with
  | zero => rfl
  | succ k ih =>
    rw [List.replicate_succ', List.foldl_append, List.foldl_cons, List.foldl_nil, shiftIn_toNat, ih]
    rcases Nat.lt_or_ge (k + 1) 64 with hlt | hfull
    · rw [min_eq_left hlt.le, min_eq_left (by omega : k + 1 + 1 ≤ 64), Nat.pow_succ 2 (k + 1)]
      have hle : 2 ^ (k + 1) ≤ 2 ^ 63 := Nat.pow_le_pow_right (by decide) (by omega)
      have hpos := Nat.two_pow_pos (k + 1)
      simp only [Bool.toNat_true]
      omega
    · rw [min_eq_right hfull, min_eq_right (by omega)]
      rfl

/-- Deltas of the REPEAT bin shift in LAST_BIT, once each (R76). -/
theorem recoveredBits_repeats {d : Delta} (h : classify d = .repeat1) (b : Bool) (n : Nat) :
    recoveredBits b (List.replicate n d) = List.replicate n b := by
  induction n with
  | zero => rfl
  | succ n ih =>
    rw [List.replicate_succ, recoveredBits, h, List.replicate_succ]
    exact congrArg (b :: ·) ih

/-- Up to 64 REPEAT deltas in a fresh attempt answer nothing: SR never holds a marker (R102). -/
theorem freshAttempt_repeats_none {d : Delta} (h : classify d = .repeat1) (c : Decoder) {n : Nat} (hn : n ≤ 64) :
    (attempt (List.replicate n d) (newAttempt c)).1 = .none := by
  refine freshAttempt_none_of_scans c (by rwa [List.length_replicate]) fun es hes => ?_
  obtain ⟨-, hes⟩ := List.prefix_replicate_iff.mp hes
  rw [hes, recoveredBits_repeats h]
  exact detect_of_lowest_ones (foldl_shiftIn_ones_toNat _)

/-! ### What a consume leaves alone (R105, R145) -/

/-- A consume that does not fault leaves FAULT_CODE. -/
theorem consumeStep_faultCode_of_none {d : Delta} {s : State} (h : (consume d s.dec).1 = .none) (giveup : Bool) :
    (consumeStep d giveup s).faultCode = s.faultCode := by
  cases giveup <;> simp [consumeStep, outcome, h]

/-- What a pop that transfers hands over and leaves (R126, R130). -/
theorem popDq_eq_some {s u : State} {d : Delta} (h : popDq s = some (d, u)) :
    ∃ ds, s.dq = d :: ds ∧ u = { s with dq := ds, nets := { s.nets with popped := some d } } := by
  cases hq : s.dq with
  | nil => rw [popDq_nil hq] at h; cases h
  | cons e ds =>
    rw [popDq_cons hq] at h
    cases h
    exact ⟨ds, rfl, rfl⟩

/-- DEC_START writes neither FAULT_CODE nor a parameter and does not touch MQ or the capture registers: the first consume
of an attempt cannot fault (R115). -/
theorem exec_decStart_frame {s t : State} (h : exec .decStart s = .next t) :
    t.ecs = s.ecs ∧ t.faultCode = s.faultCode ∧ t.mq = s.mq ∧ t.params = s.params := by
  simp only [exec, execDecStart] at h
  split at h
  · cases h
    exact ⟨rfl, rfl, rfl, rfl⟩
  · next d u hpop =>
    obtain ⟨ds, -, rfl⟩ := popDq_eq_some hpop
    split at h <;> cases h
    · exact ⟨by simp, consumeStep_faultCode_of_none (by rw [consume_newAttempt]) false, by simp, by simp⟩
    · exact ⟨rfl, rfl, rfl, rfl⟩

end Sys2Proof.Machine
end

section
/-! PROOFS. The statements of the Comms Decoder family (42_comms_decoder.md), each from the laws above. -/

namespace Sys2Proof.Machine

/-- Settles O25: with room a consume is the recovery, the scan of the new SR and the append. -/
theorem consumeRecoversScansAppends : Obligations.ConsumeRecoversScansAppends := by
  intro d c hroom hwf
  have hconsume := consume_room (d := d) (c := c) (by omega)
  refine ⟨by rw [hconsume]; rfl, by rw [hconsume]; rfl, consume_histLen d c hroom, consume_hist_read_same d c hroom hwf,
    fun a ha => consume_hist_read_other d c ha hroom.le, consume_hist_wf d c hwf, ?_, fun w => ?_⟩ <;> rw [hconsume]
  · exact consumedOf_eq_none
  · exact consumedOf_eq_found

/-- Settles O28: 1000 is in the REPEAT bin, so SR fills with ones and holds no marker; 64 such deltas fill HIST. -/
theorem repeatsOverflowTheHistory : Obligations.RepeatsOverflowTheHistory := by
  intro c
  have hnone := fun n (hn : n ≤ 64) => freshAttempt_repeats_none (d := 1000) rfl c hn
  refine ⟨fun n hn => ⟨hnone n hn, ?_⟩, ?_⟩
  · rw [attempt_sr_of_none (hnone n hn), newAttempt_lastBit, newAttempt_sr, recoveredBits_repeats rfl]
    exact foldl_shiftIn_ones_toNat n
  · obtain ⟨-, -, hfull⟩ := (attemptConsumesAtMostSixtyFour (List.replicate 64 1000) c).2.2 (hnone 64 le_rfl)
    rw [List.replicate_succ', hfull List.length_replicate]

/-- Settles O55, by the operations: those that wait when a queue cannot transfer split on that; DEC_START's consume is the
first of an attempt, which cannot fault. -/
theorem registersHaveTheirWriters : Obligations.RegistersHaveTheirWriters := by
  intro i s t h
  cases i with
  | decStart =>
    obtain ⟨hecs, hcode, hmq, hparams⟩ := exec_decStart_frame h
    exact ⟨.inr (by simp), .inl hecs, .inl hcode, .inl (by rw [hmq]), .inr (by simp), hparams⟩
  | decConsume =>
    simp only [exec, execDecConsume] at h
    split at h
    · cases h; simp
    · next hpop => obtain ⟨ds, -, rfl⟩ := popDq_eq_some hpop; cases h; simp
  | dqPop =>
    simp only [exec, execDqPop] at h
    split at h
    · cases h; simp
    · next hpop => obtain ⟨ds, -, rfl⟩ := popDq_eq_some hpop; cases h; simp
  | decEmit =>
    simp only [exec, execDecEmit] at h
    split at h <;> cases h <;> simp
  | ecsPush =>
    simp only [exec, execEcsPush] at h
    split at h <;> cases h <;> simp
  | decWait tick => cases tick <;> cases h <;> simp
  | _ => cases h; simp

end Sys2Proof.Machine
end

section
/-! PROOFS. The delta an edge measures and a push onto a DQ with room, and from them the statements of the Edge Capture
family (43_edge_capture.md). -/

namespace Sys2Proof.Machine

/-- The measured delta as a number: the modular interval, saturated at the largest 32-bit word (R67). -/
theorem assembleDelta_toNat (now prev : Stamp) :
    (assembleDelta now prev).toNat = min ((now.toNat + (2 ^ 64 - prev.toNat)) % 2 ^ 64) (2 ^ 32 - 1) := by
  have hsub : (now - prev).toNat = (now.toNat + (2 ^ 64 - prev.toNat)) % 2 ^ 64 := by
    rw [BitVec.toNat_sub, Nat.add_comm]
  rw [← hsub]
  unfold assembleDelta
  split
  · next hfits => rw [BitVec.toNat_ofNat, Nat.mod_eq_of_lt hfits, min_eq_left (by omega)]
  · next hlong => rw [BitVec.toNat_allOnes, min_eq_right (by omega)]

/-- A push onto a DQ with room appends at the tail and does nothing else (R126). -/
theorem pushDq_room {v : Delta} {s : State} (h : s.dq.length < 8) : pushDq v s = { s with dq := s.dq ++ [v] } :=
  if_pos h

/-- Settles O42: ECS_EDGE holds the delta assembled from NOW and PREV_TS, whose value is the saturated interval. -/
theorem edgeMeasuresTheDelta : Obligations.EdgeMeasuresTheDelta :=
  fun s => ⟨assembleDelta s.ecs.now s.ecs.prevTs, rfl, assembleDelta_toNat s.ecs.now s.ecs.prevTs⟩

/-- Settles O43, row by row: the push finds room, the drop is its pulse, and the tick is the 64-bit successor of NOW. -/
theorem captureRowsPushDropAndTick : Obligations.CaptureRowsPushDropAndTick := by
  intro s
  refine ⟨fun _ hroom => ?push, rfl, s.ecs.now + 1, BitVec.toNat_add s.ecs.now 1, rfl⟩
  case push =>
    have hready : s.dqReady = true := by rw [State.dqReady_eq]; exact decide_eq_true hroom
    rw [exec, execEcsPush, if_pos hready, pushDq_room hroom]

end Sys2Proof.Machine
end

section
/-! PROOFS. Laws of the Decode Stage: what its rows answer once a queue can transfer, OUTCOME after a consume with room,
and its cycles while nothing arrives. -/

namespace Sys2Proof.Machine

/-! ### What the rows answer (R115, R116, R119) -/

/-- DEC_CONSUME on a waiting delta: it is popped, GIVEUP_CNT cleared and the delta consumed (R116). -/
theorem exec_decConsume_cons {s : State} {d : Delta} {rest : List Delta} (h : s.dq = d :: rest) :
    exec .decConsume s = .next (consumeStep d false
      { s with dq := rest, giveupCnt := 0, nets := { s.nets with popped := some d } }) := by
  simp only [exec, execDecConsume, popDq_cons h]

/-- DEC_START on a waiting delta: it is popped, NEW is done and GIVEUP_CNT cleared; the build parameter decides whether
the delta is consumed too (R115). -/
theorem exec_decStart_cons {s : State} {d : Delta} {rest : List Delta} (h : s.dq = d :: rest) :
    let u := { s with
      dq := rest, dec := newAttempt s.dec, giveupCnt := 0, nets := { s.nets with popped := some d } }
    exec .decStart s =
      if s.params.feedStartDelta then .next (consumeStep d false u) else .next { u with decState := .framing } := by
  simp only [exec, execDecStart, popDq_cons h]

/-- A push onto an MQ with room appends at the tail and does nothing else (R126). -/
theorem pushMq_room {v : MsgWord} {s : State} (h : s.mq.length < 4) : pushMq v s = { s with mq := s.mq ++ [v] } :=
  if_pos h

/-! ### OUTCOME after a consume with room (R101, R113) -/

/-- The scan inside a consume is recovered from its answer. -/
theorem scanOf_consumedOf (r : Scan) : scanOf (consumedOf r) = r := by cases r <;> rfl

/-- A consume step with room: the recovery, the scan and the append, and then OUTCOME of the scan. -/
theorem consumeStep_room {s : State} (h : s.dec.histLen.toNat < 64) (d : Delta) (giveup : Bool) :
    consumeStep d giveup s = outcome (consumedOf (detect (recover d s.dec).sr)) giveup
      { s with
        dec := appendHist d (recover d s.dec)
        nets := { s.nets with scan := detect (recover d s.dec).sr } } := by
  rw [consumeStep, consume_room h.ne]
  simp only [scanOf_consumedOf]

/-- The give-up delta is in the IDLE bin: it shifts in one 0 (R80). -/
theorem recover_giveupDelta (c : Decoder) :
    recover giveupDelta c = { c with sr := c.sr <<< 1, bitCount := c.bitCount + 1 } :=
  recover_of_classify (k := .idle) rfl c

/-! ### The cycles of an attempt while nothing arrives (R117, R118) -/

/-- The inputs of a cycle are the first of the inputs to come. -/
theorem pin_of_inputs_cons {s : State} {p : PortsIn} {ps : List PortsIn} (h : s.inputs = p :: ps) : s.pin = p := by
  rw [State.pin, h]
  rfl

/-- A step without `rst` puts R137's decode-stage case into the registers of that stage and the producer's case into the
capture registers and DQ. -/
theorem step_no_rst {s : State} (hb : s.dq.length ≤ 8) (hrst : s.pin.rst = false) :
    ∃ t, step s = .next t ∧ t.inputs = s.inputs.tail ∧
      t.dec = (decodeCase s.pin (pulseless s)).1.dec ∧
      t.decState = (decodeCase s.pin (pulseless s)).1.decState ∧
      t.giveupCnt = (decodeCase s.pin (pulseless s)).1.giveupCnt ∧
      t.ecs = (producerCase s.pin s).1 ∧
      t.dq = (if (decodeCase s.pin (pulseless s)).2.1 then s.dq.tail else s.dq) ++ (producerCase s.pin s).2.2 := by
  obtain ⟨nets, hstep⟩ := step_eq_parallelCycle s hb
  rw [parallelCycle_no_rst s hrst] at hstep
  exact ⟨_, hstep, rfl, rfl, rfl, rfl, rfl, rfl⟩

/-- A state in the middle of an attempt with no delta queued and none held by the Edge Capture Stage. -/
structure Waiting (s : State) : Prop where
  framing : s.decState = .framing
  dqEmpty : s.dq = []
  notHeld : s.ecs.holdValid = false

/-- With nothing held, no edge and no delta offered, the producer holds nothing afterwards and pushes nothing. -/
theorem producerCase_silent {p : PortsIn} {s : State} (hheld : s.ecs.holdValid = false) (hedge : p.edge = false)
    (hoffer : p.dqWrValid = false) : (producerCase p s).1.holdValid = false ∧ (producerCase p s).2.2 = [] := by
  unfold producerCase
  cases s.params.deltaSource <;> simp [hheld, hedge, hoffer]

/-- The decode stage's case of R137 in FRAMING with DQ empty: only a tick matters, and the 2500th is the give-up. -/
theorem decodeCase_framing_nil {p : PortsIn} {s : State} (hst : s.decState = .framing) (hdq : s.dq = []) :
    decodeCase p s =
      if p.usTick then
        if s.giveupCnt = 2499 then (outcomeCase (consume 2500 s.dec) true s, false, false)
        else ({ s with giveupCnt := s.giveupCnt + 1 }, false, false)
      else (s, false, false) := by
  cases s
  dsimp only at hst hdq
  subst hst hdq
  rfl

/-- While an attempt waits, the decode stage counts the ticks below the 2500th and does nothing else (R117). -/
theorem decodeCase_waiting {p : PortsIn} {s : State} (hst : s.decState = .framing) (hdq : s.dq = [])
    (hcnt : s.giveupCnt.toNat + p.usTick.toNat ≤ 2499) :
    decodeCase p s = ({ s with giveupCnt := s.giveupCnt + BitVec.ofNat 12 p.usTick.toNat }, false, false) := by
  rw [decodeCase_framing_nil hst hdq]
  cases htick : p.usTick with
  | false => simp
  | true =>
    have hne : s.giveupCnt ≠ 2499 := fun h => by
      rw [h, htick] at hcnt
      exact absurd hcnt (by decide)
    rw [if_pos rfl, if_neg hne]
    rfl

/-- The 2500th tick of a waiting attempt consumes 2500 as a give-up (R118). -/
theorem decodeCase_expired {p : PortsIn} {s : State} (hst : s.decState = .framing) (hdq : s.dq = [])
    (htick : p.usTick = true) (hcnt : s.giveupCnt.toNat = 2499) :
    decodeCase p s = (outcomeCase (consume 2500 s.dec) true s, false, false) := by
  rw [decodeCase_framing_nil hst hdq, if_pos htick, if_pos (BitVec.eq_of_toNat_eq hcnt)]

/-- The state of the Decode Stage after the OUTCOME of a give-up (R113). -/
theorem outcomeCase_giveup_decState (r : Consumed × Decoder) (s : State) :
    (outcomeCase r true s).decState =
      match r.1 with
      | .none => .idle
      | .found _ => .emit
      | .fault _ => .fault := by
  obtain ⟨r, c⟩ := r
  cases r <;> rfl

/-- A silent cycle of a waiting attempt below its 2500th tick counts its tick, and the attempt waits on (R117). -/
theorem step_waiting {s : State} (h : Waiting s) (hrst : s.pin.rst = false) (hedge : s.pin.edge = false)
    (hoffer : s.pin.dqWrValid = false) (hcnt : s.giveupCnt.toNat + s.pin.usTick.toNat ≤ 2499) :
    ∃ t, step s = .next t ∧ Waiting t ∧ t.inputs = s.inputs.tail ∧ t.dec = s.dec ∧
      t.giveupCnt.toNat = s.giveupCnt.toNat + s.pin.usTick.toNat := by
  obtain ⟨t, hstep, hinputs, hdec, hst, hgiveup, hecs, hdq⟩ := step_no_rst (by simp [h.dqEmpty]) hrst
  obtain ⟨hheld, hpush⟩ := producerCase_silent h.notHeld hedge hoffer
  rw [decodeCase_waiting (s := pulseless s) h.framing h.dqEmpty hcnt] at hdec hst hgiveup hdq
  refine ⟨t, hstep, ⟨hst.trans h.framing, ?_, by rw [hecs, hheld]⟩, hinputs, hdec, ?_⟩
  · rw [hdq, hpush, h.dqEmpty]
    rfl
  · rw [hgiveup, BitVec.toNat_add, BitVec.toNat_ofNat]
    show (s.giveupCnt.toNat + _) % _ = _
    omega

/-- Silent cycles with fewer than 2500 ticks counted leave an attempt waiting, only its count of ticks moved
(R117, R156). -/
theorem run_waiting {ps rest : List PortsIn} {s : State} (h : Waiting s) (hin : s.inputs = ps ++ rest)
    (hsilent : silent ps) (hcnt : s.giveupCnt.toNat + ticksIn ps ≤ 2499) :
    ∃ t, Sys2Proof.core.run ps.length s = .next t ∧ Waiting t ∧ t.inputs = rest ∧ t.dec = s.dec ∧
      t.giveupCnt.toNat = s.giveupCnt.toNat + ticksIn ps := by
  induction ps generalizing s with
  | nil => exact ⟨s, core_run_zero s, h, hin, rfl, rfl⟩
  | cons p ps ih =>
    have hpin : s.pin = p := pin_of_inputs_cons hin
    have hticks : ticksIn (p :: ps) = p.usTick.toNat + ticksIn ps := by
      rw [ticksIn, List.countP_cons, Nat.add_comm, ticksIn]
      cases p.usTick <;> rfl
    obtain ⟨⟨hrst, hedge, hoffer⟩, hrest⟩ := List.forall_mem_cons.mp hsilent
    subst hpin
    obtain ⟨u, hstep, hu, hinu, hdecu, hcntu⟩ := step_waiting h hrst hedge hoffer (by omega)
    obtain ⟨t, hrun, ht, hint, hdect, hcntt⟩ := ih hu (by rw [hinu, hin]; rfl) hrest (by omega)
    exact ⟨t, (core_run_succ hstep _).trans hrun, ht, hint, hdect.trans hdecu, by omega⟩

/-- The cycle of the 2500th tick of a waiting attempt ends it as the consume of 2500 answers (R118, R113). -/
theorem step_expired {s : State} (h : Waiting s) (hrst : s.pin.rst = false) (htick : s.pin.usTick = true)
    (hcnt : s.giveupCnt.toNat = 2499) :
    ∃ t, step s = .next t ∧ t.dec = (consume 2500 s.dec).2 ∧ t.giveupCnt = 0 ∧
      t.decState =
        match (consume 2500 s.dec).1 with
        | .none => .idle
        | .found _ => .emit
        | .fault _ => .fault := by
  obtain ⟨t, hstep, -, hdec, hst, hgiveup, -⟩ := step_no_rst (by simp [h.dqEmpty]) hrst
  rw [decodeCase_expired (s := pulseless s) h.framing h.dqEmpty htick hcnt] at hdec hst hgiveup
  refine ⟨t, hstep, ?_, ?_, ?_⟩
  · rw [hdec, outcomeCase_dec]
    rfl
  · rw [hgiveup, outcomeCase_giveupCnt]
  · rw [hst, outcomeCase_giveup_decState]
    rfl

end Sys2Proof.Machine
end

section
/-! PROOFS. The statements of the Decode Stage family (44_decode_stage.md), each from the laws above. -/

namespace Sys2Proof.Machine

/-- Settles O57: by induction over the silent cycles the attempt waits on; the 2500th tick finds 2499 counted. -/
theorem silenceEndsTheAttemptAtTick2500 : Obligations.SilenceEndsTheAttemptAtTick2500 := by
  intro s ps rest hin hsilent hst hdq hheld hcnt
  obtain ⟨t, hrun, hwait, hint, hdec, hcntt⟩ := run_waiting ⟨hst, hdq, hheld⟩ hin hsilent hcnt
  refine ⟨t, hrun, hwait.framing, hdec, hwait.dqEmpty, hcntt, fun p hp hrst htick hlast => ?_⟩
  obtain ⟨qs, rfl⟩ := List.head?_eq_some_iff.mp hp
  obtain rfl := pin_of_inputs_cons hint
  rw [← hdec]
  exact step_expired hwait hrst htick (hcntt.trans hlast)

/-- Settles O34: each of the three rows answers the state it is given. -/
theorem waitingRowsChangeNothing : Obligations.WaitingRowsChangeNothing :=
  fun _ => ⟨rfl, rfl, rfl⟩

/-- Settles O35: without FEED_START_DELTA the popped delta is not consumed. -/
theorem startDiscardsTheStartDelta : Obligations.StartDiscardsTheStartDelta := by
  intro s d rest _ hdq hfeed
  rw [exec_decStart_cons hdq, hfeed]
  rfl

/-- Settles O36: the first consume of an attempt answers nothing, so OUTCOME goes to FRAMING. -/
theorem startFeedsTheStartDelta : Obligations.StartFeedsTheStartDelta := by
  intro s d rest _ hdq hfeed
  rw [exec_decStart_cons hdq, hfeed, if_pos rfl, consumeStep, consume_newAttempt]
  rfl

/-- Settles O37: with room the row is recovery, scan and append, and OUTCOME goes by what the scan finds. -/
theorem consumeRowOutcome : Obligations.ConsumeRowOutcome := by
  intro s d rest _ hdq hroom c t
  have hexec : exec .decConsume s = .next (outcome (consumedOf (detect c.sr)) false t) := by
    rw [exec_decConsume_cons hdq, consumeStep_room]
    exact hroom
  exact ⟨fun hscan => by rw [hexec, hscan]; rfl, fun w hscan => by rw [hexec, hscan]; rfl, _, hexec⟩

/-- Settles O39: below 2499 the 12-bit count goes up by one without wrapping. -/
theorem waitCountsTicks : Obligations.WaitCountsTicks := by
  intro s
  refine ⟨fun hcnt => ?_, rfl⟩
  have hnext : (s.giveupCnt + 1).toNat = s.giveupCnt.toNat + 1 :=
    BitVec.toNat_add_of_lt (y := 1) (show s.giveupCnt.toNat + 1 < 2 ^ 12 by omega)
  exact ⟨s.giveupCnt + 1, hnext, by omega, rfl⟩

/-- Settles O40: 2500 shifts in one 0, and OUTCOME of the give-up goes by what the scan finds. -/
theorem giveupRowOutcome : Obligations.GiveupRowOutcome := by
  intro s _ hroom c t
  have hexec : exec .decGiveup s = .next (outcome (consumedOf (detect c.sr)) true t) := by
    rw [exec, execDecGiveup, consumeStep_room, recover_giveupDelta]
    · rfl
    · exact hroom
  exact ⟨fun hscan => by rw [hexec, hscan]; rfl, fun w hscan => by rw [hexec, hscan]; rfl, _, hexec⟩

/-- Settles O41: MQ has room, so the message is pushed and the row does not wait. -/
theorem emitPushesTheMessage : Obligations.EmitPushesTheMessage := by
  intro s _ hroom
  have hready : s.mqNf = true := decide_eq_true hroom
  rw [exec, execDecEmit, if_pos hready, pushMq_room hroom]

end Sys2Proof.Machine
end

section
/-! PROOFS. Laws of the queues: what a transfer answers with room, with an element and blocked, what R137's two cases pop
and push, and which operation hands a message to the Consumer. -/

namespace Sys2Proof.Machine

/-! ### What a transfer answers (R126, R127) -/

/-- A full DQ takes nothing and keeps all it holds (R127). -/
theorem pushDq_full {v : Delta} {s : State} (h : 8 ≤ s.dq.length) : pushDq v s = s := if_neg h.not_gt

/-- A full MQ takes nothing and keeps all it holds (R127). -/
theorem pushMq_full {v : MsgWord} {s : State} (h : 4 ≤ s.mq.length) : pushMq v s = s := if_neg h.not_gt

theorem popMq_nil {s : State} (h : s.mq = []) : popMq s = s := by simp [popMq, h]

theorem popMq_cons {s : State} {m : MsgWord} {rest : List MsgWord} (h : s.mq = m :: rest) :
    popMq s = { s with mq := rest, nets := { s.nets with taken := some m } } := by simp [popMq, h]

/-- ECS_PUSH waits while DQ is full, the delta still held (R108, R127). -/
theorem exec_ecsPush_full {s : State} (h : 8 ≤ s.dq.length) : exec .ecsPush s = .next s := by
  have hready : s.dqReady = false := by rw [State.dqReady_eq]; exact decide_eq_false h.not_gt
  rw [exec, execEcsPush, hready, if_neg Bool.false_ne_true]

/-! ### What the cases of R137 pop and push (R128) -/

/-- A choice that also asks for an element makes no difference where an empty queue gives the same both ways. -/
theorem ite_and_nonempty {α β : Type} {P Q : Prop} [Decidable P] [Decidable Q] {q : List α} {x y : β}
    (hP : P ↔ Q ∧ q ≠ []) (hnil : q = [] → x = y) : (if P then x else y) = if Q then x else y := by
  by_cases hq : q = []
  · rw [hnil hq, ite_self, ite_self]
  · exact if_congr (hP.trans (and_iff_left hq)) rfl rfl

/-- The decode stage pops in IDLE and FRAMING where a delta waits (R130). -/
theorem decodeCase_pop_iff (p : PortsIn) (s : State) :
    (decodeCase p s).2.1 = true ↔ (s.decState = .idle ∨ s.decState = .framing) ∧ s.dq ≠ [] := by
  unfold decodeCase
  cases s.decState with
  | idle => cases s.dq <;> simp [apply_ite]
  | framing => cases s.dq <;> simp [apply_ite]
  | emit => simp [apply_ite]
  | fault => simp

/-- The decode stage pushes exactly in EMIT where MQ has room (R131). -/
theorem decodeCase_push_iff (p : PortsIn) (s : State) :
    (decodeCase p s).2.2 = true ↔ s.decState = .emit ∧ s.mq.length < 4 := by
  refine ⟨decodeCase_push, fun ⟨hst, hroom⟩ => ?_⟩
  simp [decodeCase, hst, hroom]

/-- With DELTA_SOURCE = ECS the held delta enters DQ where there is room (R108). -/
theorem producerCase_pushed_ecs (p : PortsIn) {s : State} (h : s.params.deltaSource = .ecs) :
    (producerCase p s).2.2 = if s.ecs.holdValid = true ∧ s.dq.length < 8 then [s.ecs.holdDelta] else [] := by
  simp [producerCase, h]

/-- With DELTA_SOURCE = EXTERNAL the offered delta enters DQ where there is room (R129). -/
theorem producerCase_pushed_external (p : PortsIn) {s : State} (h : s.params.deltaSource = .external) :
    (producerCase p s).2.2 = if p.dqWrValid = true ∧ s.dq.length < 8 then [p.dqWrData] else [] := by
  simp [producerCase, h]

/-! ### What the Consumer takes (R132) -/

/-- No operation but MQ_POP hands a message to the Consumer. -/
theorem exec_taken {i : Instr} {s t : State} (hi : i ≠ .mqPop) (h : exec i s = .next t) :
    t.nets.taken = s.nets.taken := by
  cases i with
  | mqPop => exact absurd rfl hi
  | decStart =>
    cases hq : s.dq with
    | nil => rw [exec, execDecStart, popDq_nil hq] at h; cases h; rfl
    | cons d rest =>
      rw [exec_decStart_cons hq] at h
      split at h <;> cases h
      · simp
      · rfl
  | decConsume =>
    cases hq : s.dq with
    | nil => rw [exec, execDecConsume, popDq_nil hq] at h; cases h; rfl
    | cons d rest => rw [exec_decConsume_cons hq] at h; cases h; simp
  | dqPop =>
    simp only [exec, execDqPop] at h
    split at h
    · cases h; rfl
    · next hpop => obtain ⟨rest, -, rfl⟩ := popDq_eq_some hpop; cases h; rfl
  | decEmit =>
    simp only [exec, execDecEmit] at h
    split at h <;> cases h <;> simp
  | ecsPush =>
    simp only [exec, execEcsPush] at h
    split at h <;> cases h <;> simp
  | decWait tick => cases tick <;> cases h <;> rfl
  | _ => cases h; simp

/-- Operations without an MQ_POP, run one after another, hand the Consumer nothing more. -/
theorem runOps_taken {is : List Instr} {s t : State} (his : .mqPop ∉ is) (h : runOps is s = .next t) :
    t.nets.taken = s.nets.taken := by
  induction is generalizing s with
  | nil => cases h; rfl
  | cons i is ih =>
    obtain ⟨hi, his⟩ := List.ne_and_not_mem_of_not_mem_cons his
    obtain ⟨u, hu, -⟩ := exec_next_out i s
    rw [runOps_cons hu] at h
    exact (ih his h).trans (exec_taken (Ne.symm hi) hu)

theorem deccondRow_ne_mqPop (st : DecState) (ne expire nf tick : Bool) :
    .mqPop ≠ deccondRow st ne expire nf tick := by
  cases st <;> cases ne <;> cases expire <;> cases nf <;> nofun

theorem mqPop_not_mem_producerOps (p : PortsIn) (s : State) : .mqPop ∉ producerOps p s := by
  cases hsrc : s.params.deltaSource with
  | ecs => simp [producerOps_ecs p hsrc]
  | external => simp [producerOps_external p hsrc]

/-- In a cycle without `rst` the Consumer takes the start-of-cycle head if it is ready, and nothing else (R132). -/
theorem step_taken {s t : State} (hrst : s.pin.rst = false) (h : step s = .next t) :
    t.nets.taken = if s.mqValid && s.pin.mqRdReady then s.mq.head? else none := by
  rw [step_eq_writeOps, writeOps, hrst, if_neg Bool.false_ne_true, List.append_assoc, runOps_beforeRow,
    selected_deccond] at h
  exact runOps_taken (s := beforeRow s)
    (List.not_mem_cons_of_ne_of_not_mem (deccondRow_ne_mqPop _ _ _ _ _) (mqPop_not_mem_producerOps s.pin s)) h

end Sys2Proof.Machine
end

section
/-! PROOFS. The statements of the family of the queues and ports (45_queues_and_ports.md), each from the laws above. -/

namespace Sys2Proof.Machine

/-- Settles O52: the step is the cycle of R137, whose pops and pushes are decided on start-of-cycle counts; a pop of an
empty queue leaves it as it is. -/
theorem queuesUpdateOncePerCycle : Obligations.QueuesUpdateOncePerCycle := by
  intro s hb hrst
  obtain ⟨nets, hstep⟩ := step_eq_parallelCycle s hb
  have htaken := step_taken hrst hstep
  have hconsumer : (s.mqValid && s.pin.mqRdReady) = true ↔ s.pin.mqRdReady = true ∧ s.mq ≠ [] := by
    rw [State.mqValid_eq, Bool.and_eq_true, decide_eq_true_eq, and_comm]
  have hstage : (decodeCase s.pin (pulseless s)).2.1 = true ↔
      (s.decState = .idle ∨ s.decState = .framing) ∧ s.dq ≠ [] :=
    decodeCase_pop_iff s.pin (pulseless s)
  rw [parallelCycle_no_rst s hrst] at hstep
  refine ⟨_, hstep, congrArg₂ (· ++ ·) ?dqPop ?dqPush, congrArg₂ (· ++ ·) ?mqPop ?mqPush, ?taken⟩
  case dqPop => exact ite_and_nonempty hstage fun hnil => by rw [hnil, List.tail_nil]
  case dqPush =>
    cases hsrc : s.params.deltaSource with
    | ecs => exact producerCase_pushed_ecs s.pin hsrc
    | external => exact producerCase_pushed_external s.pin hsrc
  case mqPop => exact ite_and_nonempty hconsumer fun hnil => by rw [hnil, List.tail_nil]
  case mqPush => exact if_congr (decodeCase_push_iff s.pin (pulseless s)) rfl rfl
  case taken => exact htaken.trans (ite_and_nonempty hconsumer fun hnil => by rw [hnil, List.head?_nil])

/-- Settles O44: each push finds room and each pop an element. -/
theorem queueTransfersMoveOneElement : Obligations.QueueTransfersMoveOneElement := by
  intro s
  refine ⟨fun v hroom => ?_, fun d rest hdq => ?_, fun hroom => ?_, fun m rest hmq => ?_⟩
  · rw [exec, execDqPush, pushDq_room hroom]
  · simp only [exec, execDqPop, popDq_cons hdq]
  · rw [exec, execMqPush, pushMq_room hroom]
  · rw [exec, execMqPop, popMq_cons hmq]

/-- Settles O45: a push that finds its queue full and a pop that finds it empty answer the state as it is. -/
theorem blockedTransfersChangeNothing : Obligations.BlockedTransfersChangeNothing := by
  intro s
  refine ⟨fun hfull => ⟨fun v => ?_, exec_ecsPush_full hfull⟩, fun hnil => ?_, fun hfull => ?_, fun hnil => ?_⟩
  · rw [exec, execDqPush, pushDq_full hfull]
  · simp only [exec, execDqPop, popDq_nil hnil]
  · rw [exec, execMqPush, pushMq_full hfull]
  · rw [exec, execMqPop, popMq_nil hnil]

/-- Settles O46: each read answers the state with its own port written and every other field as it was. -/
theorem readsShowAndChangeNothing : Obligations.ReadsShowAndChangeNothing :=
  fun _ _ => ⟨rfl, rfl⟩

end Sys2Proof.Machine
end

section
/-! PROOFS. Laws of the whole cycle: every run of operations answers a next state and keeps what each of them keeps, and
when each pulse rises. -/

namespace Sys2Proof.Machine

/-! ### The operations of a cycle, run one after another (R137) -/

/-- Every operation answers a next state (log 13). -/
theorem exec_next (i : Instr) (s : State) : ∃ t, exec i s = .next t := by
  obtain ⟨t, ht, -⟩ := exec_next_out i s
  exact ⟨t, ht⟩

theorem runOps_next (is : List Instr) (s : State) : ∃ t, runOps is s = .next t := by
  induction is generalizing s with
  | nil => exact ⟨s, rfl⟩
  | cons i is ih =>
    obtain ⟨u, hu⟩ := exec_next i s
    rw [runOps_cons hu]
    exact ih u

/-- What each of some operations keeps is kept when they are run one after another. -/
theorem runOps_keeps {α : Type} (f : State → α) {is : List Instr} {s t : State}
    (hkeep : ∀ i ∈ is, ∀ u v, exec i u = .next v → f v = f u) (h : runOps is s = .next t) : f t = f s := by
  induction is generalizing s with
  | nil => cases h; rfl
  | cons i is ih =>
    obtain ⟨u, hu⟩ := exec_next i s
    rw [runOps_cons hu] at h
    exact (ih (fun j hj => hkeep j (List.mem_cons_of_mem _ hj)) h).trans (hkeep i List.mem_cons_self s u hu)

/-! ### The pulses (R138) -/

/-- EMIT_PULSE, ABANDON_PULSE and EDGE_DROP_PULSE. -/
def pulses (s : State) : Bool × Bool × Bool := (s.emitPulse, s.abandonPulse, s.edgeDropPulse)

theorem mem_producerOps {p : PortsIn} {s : State} {i : Instr} (h : i ∈ producerOps p s) :
    i = .ecsPush ∨ i = .ecsEdge ∨ i = .ecsTick ∨ i = .dqPush p.dqWrData := by
  cases hsrc : s.params.deltaSource with
  | ecs =>
    simp only [producerOps_ecs p hsrc, List.mem_append, List.mem_ite_nil_right, List.mem_singleton] at h
    tauto
  | external =>
    simp only [producerOps_external p hsrc, List.mem_ite_nil_right, List.mem_singleton] at h
    tauto

/-- The producer's operations write no pulse. -/
theorem exec_pulses_of_mem_producerOps {p : PortsIn} {s : State} {i : Instr} (hi : i ∈ producerOps p s) (u v : State)
    (h : exec i u = .next v) : pulses v = pulses u := by
  obtain rfl | rfl | rfl | rfl := mem_producerOps hi
  · simp only [exec, execEcsPush] at h
    split at h <;> cases h <;> simp [pulses]
  · cases h; rfl
  · cases h; rfl
  · cases h; simp [pulses]

/-- In a cycle with `rst` the pulses fall (R161). -/
theorem step_pulses_rst {s : State} (hrst : s.pin.rst = true) :
    ∃ t, step s = .next t ∧ pulses t = (false, false, false) := by
  rw [step_eq_writeOps, writeOps, if_pos hrst]
  exact ⟨_, rfl, rfl⟩

/-- In a cycle without `rst` the pulses are those of R137's two cases, whatever DQ holds: the decode-stage row and the
dropped edge have written them before the producer's operations run. -/
theorem step_pulses_no_rst {s : State} (hrst : s.pin.rst = false) :
    ∃ t, step s = .next t ∧ pulses t =
      ((decodeCase s.pin (pulseless s)).1.emitPulse, (decodeCase s.pin (pulseless s)).1.abandonPulse,
        (producerCase s.pin s).2.1) := by
  obtain ⟨popped, scan, hrow⟩ := exec_deccondRow s.pin (pulseless s) (beforeRow s)
    rfl rfl rfl rfl rfl rfl rfl rfl rfl (Nat.lt_of_le_of_lt (length_ite_tail_le _ _))
  rw [step_eq_writeOps, writeOps, hrst, if_neg Bool.false_ne_true, List.append_assoc, runOps_beforeRow,
    selected_deccond]
  obtain ⟨t, ht⟩ := runOps_next (producerOps s.pin s) _
  exact ⟨t, (runOps_cons hrow _).trans ht, runOps_keeps pulses (fun _ => exec_pulses_of_mem_producerOps) ht⟩

/-- The decode stage raises EMIT_PULSE exactly where DEC_EMIT pushes (R119). -/
theorem decodeCase_emitPulse_iff (p : PortsIn) {s : State} (h : s.emitPulse = false) :
    (decodeCase p s).1.emitPulse = true ↔ s.decState = .emit ∧ s.mq.length < 4 := by
  unfold decodeCase
  cases hst : s.decState with
  | idle => cases s.dq <;> simp [apply_ite, h]
  | framing => cases s.dq <;> simp [apply_ite, h]
  | emit => simp [apply_ite, h]
  | fault => simp [h]

/-- A consume answers nothing exactly when it finds room and its scan finds no frame (R101). -/
theorem consume_eq_none_iff {d : Delta} {c : Decoder} :
    (consume d c).1 = .none ↔ c.histLen.toNat ≠ 64 ∧ detect (recover d c).sr = .none := by
  by_cases hf : c.histLen.toNat = 64
  · simp [consume_full hf, hf]
  · simp [consume_room hf, hf, consumedOf_eq_none]

/-- OUTCOME raises ABANDON_PULSE exactly after a give-up that answered nothing (R113). -/
theorem outcomeCase_abandonPulse_iff {r : Consumed × Decoder} {giveup : Bool} {s : State} (h : s.abandonPulse = false) :
    (outcomeCase r giveup s).abandonPulse = true ↔ giveup = true ∧ r.1 = .none := by
  obtain ⟨r, c⟩ := r
  cases r <;> cases giveup <;> simp [outcomeCase, h]

/-- The give-up consume answers nothing exactly when it finds room and one 0 shifted in completes no frame (R80). -/
theorem consume_giveup_eq_none_iff {c : Decoder} :
    (consume 2500 c).1 = .none ↔ c.histLen.toNat ≠ 64 ∧ detect (c.sr <<< 1) = .none := by
  rw [consume_eq_none_iff, show recover 2500 c = recover giveupDelta c from rfl, recover_giveupDelta]

/-- The decode stage raises ABANDON_PULSE exactly in FRAMING with DQ empty, at the 2500th tick, where the give-up consume
neither faults nor matches (R118). -/
theorem decodeCase_abandonPulse_iff (p : PortsIn) {s : State} (h : s.abandonPulse = false) :
    (decodeCase p s).1.abandonPulse = true ↔
      s.decState = .framing ∧ s.dq = [] ∧ p.usTick = true ∧ s.giveupCnt.toNat = 2499 ∧
        s.dec.histLen.toNat ≠ 64 ∧ detect (s.dec.sr <<< 1) = .none := by
  rw [← consume_giveup_eq_none_iff]
  unfold decodeCase
  split
  case h_1 hst hdq => simp [h, hst]
  case h_2 hst hdq =>
    split
    · simp [outcomeCase_abandonPulse_iff h, hst]
    · simp [h, hst]
  case h_3 hst hdq => simp [outcomeCase_abandonPulse_iff h, hdq]
  case h_4 hst hdq =>
    split_ifs with htick hcnt
    · simp [outcomeCase_abandonPulse_iff h, hst, hdq, htick, hcnt]
    · exact iff_of_false (by simp [h]) fun ⟨_, _, _, e, _⟩ => hcnt (BitVec.eq_of_toNat_eq e)
    · simp [h, htick]
  case h_5 hst => simp [apply_ite, h, hst]
  case h_6 hst => simp [h, hst]

/-- The producer drops an edge exactly where the Edge Capture Stage is stalled (R63, R109). -/
theorem producerCase_dropped_iff (p : PortsIn) (s : State) :
    (producerCase p s).2.1 = true ↔
      s.params.deltaSource = .ecs ∧ p.edge = true ∧ s.ecs.holdValid = true ∧ s.dq.length = 8 := by
  unfold producerCase
  cases s.params.deltaSource <;> simp

end Sys2Proof.Machine
end

section
/-! PROOFS. The parts of R137's cycle as runs of the transaction view (R140, R141): the Consumer's pop, the decode stage's
case and the producer's push. -/

namespace Sys2Proof.Machine

/-- The producer pushes at most one delta, and only where DQ had room at the start of the cycle (R108, R129). -/
theorem producerCase_pushed (p : PortsIn) (s : State) :
    (producerCase p s).2.2 = [] ∨ ∃ d, (producerCase p s).2.2 = [d] ∧ s.dq.length < 8 := by
  cases hsrc : s.params.deltaSource with
  | ecs =>
    rw [producerCase_pushed_ecs p hsrc]
    split_ifs with h
    exacts [.inr ⟨_, rfl, h.2⟩, .inl rfl]
  | external =>
    rw [producerCase_pushed_external p hsrc]
    split_ifs with h
    exacts [.inr ⟨_, rfl, h.2⟩, .inl rfl]

@[simp] theorem State.tx_dec (s : State) : s.tx.dec = s.dec := rfl
@[simp] theorem State.tx_dq (s : State) : s.tx.dq = s.dq := rfl
@[simp] theorem State.tx_mq (s : State) : s.tx.mq = s.mq := rfl

@[simp] theorem State.tx_phase_idle (s : State) (h : s.decState = .idle) : s.tx.phase = .idle := by
  simp [State.tx, h]

@[simp] theorem State.tx_phase_framing (s : State) (h : s.decState = .framing) : s.tx.phase = .framing := by
  simp [State.tx, h]

@[simp] theorem State.tx_phase_emit (s : State) (h : s.decState = .emit) : s.tx.phase = .emit s.msgHold := by
  simp [State.tx, h]

/-- OUTCOME of the cycle model is the phase that TX enters (R113, R140). -/
@[simp] theorem outcomeCase_tx_phase (r : Consumed × Decoder) (giveup : Bool) (s : State) :
    (outcomeCase r giveup s).tx.phase = Tx.phaseAfter r.1 giveup := by
  obtain ⟨r, c⟩ := r
  cases r <;> cases giveup <;> rfl

namespace Tx

variable {params : Params} {t u v : Tx}

theorem Step.run (h : Step params t u) : Run params t u := .step t u u h (.stay u)

theorem Run.trans (h : Run params t u) (h' : Run params u v) : Run params t v := by
  induction h with
  | stay => exact h'
  | step t u w first _ ih => exact .step t u v first (ih h')

/-- The Consumer's pop, where it happens, is a step of TX. -/
theorem run_tail {b : Bool} (t : Tx) (h : b = true → t.mq ≠ []) :
    Run params t { t with mq := if b then t.mq.tail else t.mq } := by
  cases b with
  | false => exact .stay t
  | true =>
    obtain ⟨m, rest, hmq⟩ := List.exists_cons_of_ne_nil (h rfl)
    rw [if_pos rfl, hmq]
    exact (Step.pop t m rest hmq).run

/-- What the producer pushes enters a TX queue no longer than DQ was at the start of the cycle (R129, R137). -/
theorem run_pushed (p : PortsIn) {s : State} (t : Tx) (h : t.dq.length ≤ s.dq.length) :
    Run params t { t with dq := t.dq ++ (producerCase p s).2.2 } := by
  obtain hnil | ⟨d, hd, hroom⟩ := producerCase_pushed p s
  · rw [hnil, List.append_nil]
    exact .stay t
  · rw [hd]
    exact (Step.push t d (by omega)).run

/-- The TX state after the decode stage's case of R137, from a message queue `mq` that the Consumer has left. -/
def afterDecodeCase (p : PortsIn) (s : State) (mq : List MsgWord) : Tx :=
  { phase := (decodeCase p s).1.tx.phase
    dec := (decodeCase p s).1.dec
    dq := if (decodeCase p s).2.1 then s.dq.tail else s.dq
    mq := mq ++ if (decodeCase p s).2.2 then [s.msgHold] else [] }

/-- The decode stage's case of R137 is no step of TX or one: each of its branches is the step of its phase. -/
theorem run_decodeCase (p : PortsIn) (s : State) {mq : List MsgWord} (hmq : mq.length ≤ s.mq.length) :
    Run s.params { s.tx with mq := mq } (afterDecodeCase p s mq) := by
  unfold afterDecodeCase decodeCase
  split
  case h_1 => simpa using Run.stay _
  case h_2 d ds hst hdq =>
    split
    · next hfed =>
      simpa [hst, hdq] using (Step.startFed { s.tx with mq := mq } d ds (s.tx_phase_idle hst) hdq hfed).run
    · next hunfed =>
      have hunfed : s.params.feedStartDelta = false := Bool.eq_false_of_not_eq_true hunfed
      simpa [hst, hdq] using (Step.start { s.tx with mq := mq } d ds (s.tx_phase_idle hst) hdq hunfed).run
  case h_3 d ds hst hdq =>
    simpa [hst, hdq] using
      (Step.consume (params := s.params) { s.tx with mq := mq } d ds (s.tx_phase_framing hst) hdq).run
  case h_4 hst hdq =>
    split
    · split
      · simpa [hst, hdq] using
          (Step.giveup (params := s.params) { s.tx with mq := mq } (s.tx_phase_framing hst) hdq).run
      · simpa [hst, hdq] using Run.stay _
    · simpa [hst, hdq] using Run.stay _
  case h_5 hst =>
    split
    · next hroom =>
      simpa [hst] using (Step.emit (params := s.params) { s.tx with mq := mq } s.msgHold (s.tx_phase_emit hst)
        (Nat.lt_of_le_of_lt hmq hroom)).run
    · simpa using Run.stay _
  case h_6 => simpa using Run.stay _

end Tx

/-- The cycle of R137 without `rst` in TX: the Consumer's pop, the decode stage's case, the producer's push. -/
theorem run_parallelCycle {p : PortsIn} (s : State) (hrst : p.rst = false) :
    Tx.Run s.params s.tx (parallelCycle p s).tx := by
  have hpop : Tx.Run s.params s.tx { s.tx with mq := if s.mqValid && p.mqRdReady then s.mq.tail else s.mq } := by
    refine Tx.run_tail s.tx fun h => ?_
    simpa [State.mqValid_eq] using (Bool.and_eq_true_iff.mp h).1
  have hdecode := Tx.run_decodeCase p (pulseless s) (length_ite_tail_le (s.mqValid && p.mqRdReady) s.mq)
  rw [parallelCycle_no_rst s hrst]
  exact hpop.trans (hdecode.trans (Tx.run_pushed p _ (length_ite_tail_le _ s.dq)))

end Sys2Proof.Machine
end

section
/-! PROOFS. Laws of two attempts whose decoders differ in the contents of HIST alone (R100, R142). -/

namespace Sys2Proof.Machine

/-- A recovery neither reads nor writes HIST. -/
theorem recover_setHist (d : Delta) (c : Decoder) (h : Memory) :
    recover d { c with hist := h } = { recover d c with hist := h } := by
  unfold recover
  cases classify d with
  | ambig =>
    show recoverAmbig _ = { recoverAmbig c with hist := h }
    unfold recoverAmbig Decoder.lastBit
    split <;> rfl
  | _ => rfl

/-- What HIST holds reaches only HIST in a consume (R101). -/
theorem consume_setHist (d : Delta) (c : Decoder) (h : Memory) :
    ∃ h', consume d { c with hist := h } = ((consume d c).1, { (consume d c).2 with hist := h' }) := by
  by_cases hf : c.histLen.toNat = 64
  · exact ⟨h, by rw [consume_full hf, consume_full (c := { c with hist := h }) hf]⟩
  · rw [consume_room hf, consume_room (c := { c with hist := h }) hf, recover_setHist]
    exact ⟨_, rfl⟩

/-- What HIST holds reaches only HIST in an attempt (R142). -/
theorem attempt_setHist (ds : List Delta) (c : Decoder) (h : Memory) :
    ∃ h', attempt ds { c with hist := h } = ((attempt ds c).1, { (attempt ds c).2 with hist := h' }) := by
  induction ds generalizing c h with
  | nil => exact ⟨h, rfl⟩
  | cons d ds ih =>
    obtain ⟨h', e⟩ := consume_setHist d c h
    rw [attempt_cons, attempt_cons, e]
    split
    · exact ih (consume d c).2 h'
    · exact ⟨h', rfl⟩

end Sys2Proof.Machine
end

section
/-! PROOFS. The statements of the family of the cycle (48_cycle_step.md), each from the laws above. -/

namespace Sys2Proof.Machine

/-- Settles O51: the step is the cycle of R137 up to the model's records, which `State.block` blanks. -/
theorem stepIsTheParallelCycle : Obligations.StepIsTheParallelCycle := by
  intro s hb
  obtain ⟨nets, hstep⟩ := step_eq_parallelCycle s hb
  exact ⟨_, hstep, rfl, rfl⟩

/-- Settles O59: the step is the cycle of R137, which TX runs in the order pop, decode step, push. -/
theorem cyclesAreTransactionRuns : Obligations.CyclesAreTransactionRuns := by
  intro s hinv hrst
  obtain ⟨nets, hstep⟩ := step_eq_parallelCycle s hinv.dqBound
  exact ⟨_, hstep, run_parallelCycle s hrst⟩

/-- Settles O30: NEW writes SR, BIT_COUNT and HIST_LEN, so two new attempts differ in HIST alone, which reaches nothing
else. -/
theorem attemptForgetsTheOldDecoder : Obligations.AttemptForgetsTheOldDecoder := by
  intro ds c1 c2
  obtain ⟨h, e⟩ := attempt_setHist ds (newAttempt c1) c2.hist
  have hnew : newAttempt c2 = { newAttempt c1 with hist := c2.hist } := rfl
  rw [hnew, e]
  exact ⟨rfl, rfl, rfl, rfl⟩

/-- Settles O53: RESET clears the pulses; without it the decode stage's case and the producer's write them, each in the
case of its event. -/
theorem pulsesFollowTheirEvents : Obligations.PulsesFollowTheirEvents := by
  intro s
  cases hrst : s.pin.rst with
  | true =>
    obtain ⟨t, hstep, hpulses⟩ := step_pulses_rst hrst
    obtain ⟨hemit, habandon, hdrop⟩ : t.emitPulse = false ∧ t.abandonPulse = false ∧ t.edgeDropPulse = false := by
      simpa [pulses] using hpulses
    exact ⟨t, hstep, by simp [hemit], by simp [habandon], by simp [hdrop]⟩
  | false =>
    obtain ⟨t, hstep, hpulses⟩ := step_pulses_no_rst hrst
    obtain ⟨hemit, hrest⟩ := Prod.mk.inj hpulses
    obtain ⟨habandon, hdrop⟩ := Prod.mk.inj hrest
    refine ⟨t, hstep, ?_, ?_, ?_⟩
    · rw [hemit, decodeCase_emitPulse_iff s.pin (s := pulseless s) rfl]
      exact (and_iff_right rfl).symm
    · rw [habandon, decodeCase_abandonPulse_iff s.pin (s := pulseless s) rfl]
      exact (and_iff_right rfl).symm
    · rw [hdrop, producerCase_dropped_iff]
      exact (and_iff_right rfl).symm

/-- Settles O48: the operations before `i` lead to `s1`, and the rest of the plan runs from there. -/
theorem stepRunsTheSelectedOperations : Obligations.StepRunsTheSelectedOperations := by
  intro s before after i s1 hplan hbefore
  rw [step_eq_runOps, hplan, runOps_append hbefore]
  rfl

/-- Settles O50: a step is a run of operations, each of which answers a next state. -/
theorem everyCycleHasANextState : Obligations.EveryCycleHasANextState :=
  ⟨exec_next, fun s => runOps_next (plan s.pin s) (beginCycle s)⟩

end Sys2Proof.Machine
end

section
/-! PROOFS. Laws of the exceptions: a consume step on a full history, what the producer of DQ leaves alone, and a cycle in
FAULT. -/

namespace Sys2Proof.Machine

/-- A consume step on a full history enters FAULT with HIST_OVF and writes no decoder register (R101, R145). -/
theorem consumeStep_full {s : State} (h : s.dec.histLen.toNat = 64) (d : Delta) (giveup : Bool) :
    consumeStep d giveup s = raiseFault .histOvf { s with nets := { s.nets with scan := .none } } := by
  rw [consumeStep, consume_full h]
  rfl

/-- A push onto DQ keeps what it held in front, with room or without (R126, R127). -/
theorem dq_prefix_pushDq (v : Delta) (s : State) : s.dq <+: (pushDq v s).dq := by
  by_cases hroom : s.dq.length < 8
  · rw [pushDq_room hroom]
    exact List.prefix_append s.dq [v]
  · rw [pushDq_full (Nat.le_of_not_lt hroom)]

/-- `t` has the Decode Stage's registers and MQ of `s`, and DQ at most with deltas added behind those of `s`. -/
structure DecodeHeld (s t : State) : Prop where
  decState : t.decState = s.decState
  faultCode : t.faultCode = s.faultCode
  dec : t.dec = s.dec
  giveupCnt : t.giveupCnt = s.giveupCnt
  msgHold : t.msgHold = s.msgHold
  mq : t.mq = s.mq
  dq : s.dq <+: t.dq

theorem DecodeHeld.refl (s : State) : DecodeHeld s s := ⟨rfl, rfl, rfl, rfl, rfl, rfl, List.prefix_rfl⟩

theorem DecodeHeld.trans {s t u : State} (h : DecodeHeld s t) (h' : DecodeHeld t u) : DecodeHeld s u where
  decState := h'.decState.trans h.decState
  faultCode := h'.faultCode.trans h.faultCode
  dec := h'.dec.trans h.dec
  giveupCnt := h'.giveupCnt.trans h.giveupCnt
  msgHold := h'.msgHold.trans h.msgHold
  mq := h'.mq.trans h.mq
  dq := h.dq.trans h'.dq

theorem decodeHeld_pushDq (v : Delta) (s : State) : DecodeHeld s (pushDq v s) :=
  ⟨by simp, by simp, by simp, by simp, by simp, by simp, dq_prefix_pushDq v s⟩

/-- The producer's operations write the capture registers and the tail of DQ alone (R106 to R108, R129). -/
theorem exec_decodeHeld_of_mem_producerOps {p : PortsIn} {s : State} {i : Instr} (hi : i ∈ producerOps p s)
    {u v : State} (h : exec i u = .next v) : DecodeHeld u v := by
  obtain rfl | rfl | rfl | rfl := mem_producerOps hi
  case inl =>
    simp only [exec, execEcsPush] at h
    split at h <;> cases h
    · exact { decodeHeld_pushDq u.ecs.holdDelta u with }
    · exact .refl u
  case inr.inl => cases h; exact { DecodeHeld.refl u with }
  case inr.inr.inl => cases h; exact { DecodeHeld.refl u with }
  case inr.inr.inr => cases h; exact decodeHeld_pushDq p.dqWrData u

/-- What each of some operations holds is held when they are run one after another. -/
theorem runOps_decodeHeld {is : List Instr} {s t : State}
    (hheld : ∀ i ∈ is, ∀ u v, exec i u = .next v → DecodeHeld u v) (h : runOps is s = .next t) : DecodeHeld s t := by
  induction is generalizing s with
  | nil => cases h; exact .refl _
  | cons i is ih =>
    obtain ⟨u, hu⟩ := exec_next i s
    rw [runOps_cons hu] at h
    exact (hheld i List.mem_cons_self s u hu).trans (ih (fun j hj => hheld j (List.mem_cons_of_mem _ hj)) h)

/-- In FAULT a cycle without `rst` selects DEC_FAULT_HOLD, so after the Consumer's pop only the producer of DQ writes
(R121, R147), whatever DQ holds. -/
theorem step_fault {s : State} (hst : s.decState = .fault) (hrst : s.pin.rst = false) :
    ∃ t, step s = .next t ∧ DecodeHeld (beforeRow s) t := by
  have hrow : exec (deccondRow s.decState s.dqNe (s.expire s.pin.usTick) s.mqNf s.pin.usTick) (beforeRow s) =
      .next (beforeRow s) := by
    rw [hst]
    rfl
  have hstep : step s = runOps (producerOps s.pin s) (beforeRow s) := by
    rw [step_eq_writeOps, writeOps, hrst, if_neg Bool.false_ne_true, List.append_assoc, runOps_beforeRow,
      selected_deccond]
    exact runOps_cons hrow _
  obtain ⟨t, ht⟩ := runOps_next (producerOps s.pin s) (beforeRow s)
  exact ⟨t, hstep.trans ht, runOps_decodeHeld (fun _ hi _ _ => exec_decodeHeld_of_mem_producerOps hi) ht⟩

/-- The Consumer's pop takes the head of MQ where it is ready; of an empty MQ it takes nothing (R127, R132). -/
theorem beforeRow_mq (s : State) : (beforeRow s).mq = if s.pin.mqRdReady = true then s.mq.tail else s.mq := by
  have hpop : (s.mqValid && s.pin.mqRdReady) = true ↔ s.pin.mqRdReady = true ∧ s.mq ≠ [] := by
    rw [State.mqValid_eq, Bool.and_eq_true, decide_eq_true_eq, and_comm]
  exact ite_and_nonempty hpop fun hnil => by rw [hnil, List.tail_nil]

end Sys2Proof.Machine
end

section
/-! PROOFS. The statements of the family of the exceptions (60_exceptions.md), each from the laws above. -/

namespace Sys2Proof.Machine

/-- Settles O54: the cycle is the Consumer's pop and then the producer of DQ, which holds the Decode Stage's registers. -/
theorem faultHoldsUntilReset : Obligations.FaultHoldsUntilReset := by
  intro s hst hrst
  obtain ⟨t, hstep, held⟩ := step_fault hst hrst
  obtain ⟨more, hdq⟩ := held.dq
  exact ⟨t, hstep, held.decState.trans hst, held.faultCode, held.dec, held.giveupCnt, held.msgHold,
    held.mq.trans (beforeRow_mq s), more, hdq.symm⟩

/-- Settles O24, by what a consume can answer: the overflow's fault, nothing, or a message. -/
theorem msgLenIsNeverRaised : Obligations.MsgLenIsNeverRaised := by
  intro d c
  obtain ⟨-, e⟩ | ⟨-, -, e⟩ | ⟨-, w, -, e⟩ := consume_cases d c <;> rw [e] <;> nofun

/-- Settles O38: both rows are a consume step, and the history is full. -/
theorem historyOverflowEntersFault : Obligations.HistoryOverflowEntersFault := by
  intro s _ hfull
  refine ⟨fun d rest hdq => ?consume, ?giveup⟩
  case consume =>
    rw [exec_decConsume_cons hdq, consumeStep_full]
    · rfl
    · exact hfull
  case giveup =>
    rw [exec, execDecGiveup, consumeStep_full]
    · rfl
    · exact hfull

end Sys2Proof.Machine
end

section
/-! PROOFS. Laws of RESET and of the cycles without backlog: what the queues, the capture registers and the decode stage
do while DQ and MQ hold at most one element and the Consumer pops (R161, R168). -/

namespace Sys2Proof.Machine

/-- In a cycle with `rst` the two reads show their ports and RESET alone writes registers, whatever DQ holds (R161). -/
theorem step_rst {s : State} (hrst : s.pin.rst = true) : step s = .next (resetBlock (afterReads s)) := by
  rw [step_eq_writeOps, writeOps, if_pos hrst]
  rfl

theorem smooth_resetBlock {s : State} (hsrc : s.params.deltaSource = .ecs) : Smooth (resetBlock s) where
  ecs := hsrc
  dqShort := Nat.zero_le 1
  mqShort := Nat.zero_le 1
  mqIdle := fun _ => rfl
  heldIdle := fun _ _ => rfl

theorem smooth_withRecords (s : State) {t : State} (h : Smooth t) (nets : Nets) : Smooth (withRecords s t nets) :=
  { h with }

/-- A queue of at most one element is empty once it has been popped where it held one. -/
theorem ite_tail_eq_nil {α : Type} {q : List α} {b : Bool} (hshort : q.length ≤ 1) (hpop : q ≠ [] → b = true) :
    (if b then q.tail else q) = [] := by
  match q with
  | [] => exact ite_self []
  | [a] => rw [hpop (List.cons_ne_nil a []), if_pos rfl, List.tail_cons]
  | _ :: _ :: _ => simp at hshort

/-- With room in DQ the Edge Capture Stage drops no edge and lets its held delta go, so that afterwards it holds a delta
exactly where it accepted an edge (R107, R108). -/
theorem producerCase_room (p : PortsIn) {s : State} (hsrc : s.params.deltaSource = .ecs) (hroom : s.dq.length < 8) :
    (producerCase p s).1.holdValid = p.edge ∧ (producerCase p s).2.1 = false ∧
      (producerCase p s).2.2 = if s.ecs.holdValid then [s.ecs.holdDelta] else [] := by
  cases hheld : s.ecs.holdValid <;> simp [producerCase, hsrc, hheld, hroom, hroom.ne]

/-- EMIT with room in MQ lasts one cycle, which pops nothing (R119). -/
theorem decodeCase_emit (p : PortsIn) {s : State} (hst : s.decState = .emit) (hroom : s.mq.length < 4) :
    decodeCase p s = ({ s with emitPulse := true, decState := .idle }, false, true) := by
  simp [decodeCase, hst, hroom]

/-- In FAULT the decode stage writes nothing (R121). -/
theorem decodeCase_fault (p : PortsIn) {s : State} (hst : s.decState = .fault) :
    decodeCase p s = (s, false, false) := by
  simp [decodeCase, hst]

namespace Smooth

variable {s : State} {p : PortsIn}

theorem dqRoom (h : Smooth s) : s.dq.length < 8 := Nat.lt_of_le_of_lt h.dqShort (by decide)

theorem dqBound (h : Smooth s) : s.dq.length ≤ 8 := h.dqRoom.le

theorem mqRoom (h : Smooth s) : s.mq.length < 4 := Nat.lt_of_le_of_lt h.mqShort (by decide)

theorem mq_eq_nil (h : Smooth s) (hst : s.decState ≠ .idle) : s.mq = [] :=
  by_contra fun hne => hst (h.mqIdle hne)

/-- The ready Consumer empties MQ (R132). -/
theorem consumed_mq (h : Smooth s) (hready : p.mqRdReady = true) :
    (if s.mqValid && p.mqRdReady then s.mq.tail else s.mq) = [] :=
  ite_tail_eq_nil h.mqShort fun hne => by rw [State.mqValid_eq, decide_eq_true hne, hready, Bool.and_self]

/-- In IDLE and FRAMING the decode stage empties DQ, and a delta that enters it leaves none held behind it. -/
theorem parallelCycle_of_takes (h : Smooth s) (hrst : p.rst = false) (hready : p.mqRdReady = true)
    (hedge : s.ecs.holdValid = true → p.edge = false) (hst : s.decState = .idle ∨ s.decState = .framing) :
    Smooth (parallelCycle p s) := by
  obtain ⟨hheld, -, hpush⟩ := producerCase_room p h.ecs h.dqRoom
  have hpop : (if (decodeCase p (pulseless s)).2.1 then s.dq.tail else s.dq) = [] :=
    ite_tail_eq_nil h.dqShort fun hne => (decodeCase_pop_iff p (pulseless s)).mpr ⟨hst, hne⟩
  have hnoMsg : (decodeCase p (pulseless s)).2.2 = false :=
    Bool.eq_false_of_not_eq_true fun hmsg => by
      have hemit : s.decState = .emit := (decodeCase_push hmsg).1
      simp [hemit] at hst
  rw [parallelCycle_no_rst s hrst, hpop, hpush, hnoMsg, h.consumed_mq hready]
  exact
    { ecs := (congrArg Params.deltaSource (decodeCase_params p (pulseless s))).trans h.ecs
      dqShort := by cases s.ecs.holdValid <;> simp
      mqShort := Nat.zero_le 1
      mqIdle := fun hne => absurd rfl hne
      heldIdle := fun hacc hne => by
        have haccepted : p.edge = true := hheld.symm.trans hacc
        cases hwas : s.ecs.holdValid with
        | true => simp [hedge hwas] at haccepted
        | false => simp [hwas] at hne }

/-- EMIT pushes its message into the empty MQ and returns to IDLE; a delta waits in DQ or is held, not both. -/
theorem parallelCycle_of_emit (h : Smooth s) (hrst : p.rst = false) (hready : p.mqRdReady = true)
    (hst : s.decState = .emit) : Smooth (parallelCycle p s) := by
  obtain ⟨-, -, hpush⟩ := producerCase_room p h.ecs h.dqRoom
  rw [parallelCycle_no_rst s hrst, decodeCase_emit p (s := pulseless s) hst h.mqRoom, hpush, h.consumed_mq hready]
  exact
    { ecs := h.ecs
      dqShort := by
        cases hheld : s.ecs.holdValid with
        | false => simpa using h.dqShort
        | true =>
          have hdq : s.dq = [] := by_contra fun hne => by simp [h.heldIdle hheld hne] at hst
          simp [hdq]
      mqShort := Nat.le_refl 1
      mqIdle := fun _ => rfl
      heldIdle := fun _ _ => rfl }

/-- The cycle of R137 with a ready Consumer and no edge while a delta is held builds up no backlog, until a fault
(R168). -/
theorem parallelCycle_fault_or_smooth (h : Smooth s) (hready : p.mqRdReady = true)
    (hedge : s.ecs.holdValid = true → p.edge = false) :
    (parallelCycle p s).decState = .fault ∨ Smooth (parallelCycle p s) := by
  cases hrst : p.rst with
  | true =>
    rw [parallelCycle_rst s hrst]
    exact .inr (smooth_resetBlock h.ecs)
  | false =>
    cases hst : s.decState with
    | idle => exact .inr (h.parallelCycle_of_takes hrst hready hedge (.inl hst))
    | framing => exact .inr (h.parallelCycle_of_takes hrst hready hedge (.inr hst))
    | emit => exact .inr (h.parallelCycle_of_emit hrst hready hst)
    | fault =>
      rw [parallelCycle_no_rst s hrst, decodeCase_fault p (s := pulseless s) hst]
      exact .inl hst

/-- With room in DQ the cycle of R137 drops no edge (R109). -/
theorem parallelCycle_edgeDropPulse (h : Smooth s) : (parallelCycle p s).edgeDropPulse = false := by
  cases hrst : p.rst with
  | true => rw [parallelCycle_rst s hrst]; rfl
  | false =>
    rw [parallelCycle_no_rst s hrst]
    exact (producerCase_room p h.ecs h.dqRoom).2.1

end Smooth

end Sys2Proof.Machine
end

section
/-! PROOFS. The statements of the family of reset and hazards (70_reset_and_hazards.md), each from the laws above. -/

namespace Sys2Proof.Machine

/-- Settles O60: the step is the cycle of R137, in which a state without backlog empties DQ and MQ or pushes into an
empty one. -/
theorem readyConsumerDropsNoEdge : Obligations.ReadyConsumerDropsNoEdge := by
  intro s h hready hedge
  obtain ⟨nets, hstep⟩ := step_eq_parallelCycle s h.dqBound
  exact ⟨_, hstep, h.parallelCycle_edgeDropPulse,
    (h.parallelCycle_fault_or_smooth hready hedge).imp_right (smooth_withRecords s · nets)⟩

/-- Settles O3: the row is the named reset of the block. -/
theorem resetRowWritesResetValues : Obligations.ResetRowWritesResetValues :=
  fun _ => rfl

/-- Settles O4: RESET is the only operation of the cycle that writes a register; the reads show ports. -/
theorem resetOverridesTheCycle : Obligations.ResetOverridesTheCycle :=
  fun _ hrst => ⟨_, step_rst hrst, rfl, rfl⟩

end Sys2Proof.Machine
end
